-- ==== Sys2Proof/Word.lean ====
section
/-! DEFINITION. The two word types of the block: the byte of a byte string (00_scope.md R8) and the 32-bit value
of a register (00_scope.md R9). Byte-string and byte-order helpers are in Machine/Bytes.lean. -/

namespace Sys2Proof

/-- A byte: an unsigned 8-bit value (R8). -/
abbrev Byte := BitVec 8

/-- The value of a register, or the data of a bus transaction: 32 bits, unsigned (R9, R80). -/
abbrev Word := BitVec 32

end Sys2Proof
end

