-- ==== Sys2Proof/Syntax.lean ====
section
/-! DEFINITION. The commands of the block, the analogue of a processor's instructions (30_encoding.md R112):
one constructor for each row of spec/opcode_table.json. A command word carries no addresses, lengths or
immediates (R111): the one option in the word is X of KDF. -/

namespace Sys2Proof

/-- A command (R112). Every operand but X comes from a register (R111). -/
inductive Instr where
  /-- NOP, 0x00000000 (R240). -/
  | nop
  /-- KDF, 0x00000001, and KDF.X, 0x00000101: X = word bit 8 asks for the export of the digest (R241). -/
  | kdf (x : Bool)
  /-- KEYLOAD, 0x00000002 (R242). -/
  | keyload
  /-- KEYCLEAR, 0x00000003 (R243). -/
  | keyclear
  /-- AES_ENC, 0x00000010 (R260). -/
  | aesEnc
  /-- AES_DEC, 0x00000011 (R261). -/
  | aesDec
  /-- MAC_GEN, 0x00000020 (R280). -/
  | macGen
  /-- MAC_VERIFY, 0x00000021 (R281). -/
  | macVerify
  /-- PKT_ENCODE, 0x00000030 (R300). -/
  | pktEncode
  /-- PKT_DECODE, 0x00000031 (R301). -/
  | pktDecode
  /-- SEAL, 0x00000040 (R320). -/
  | sealPkt
  /-- OPEN, 0x00000041 (R321). -/
  | openPkt
  deriving DecidableEq, Repr

end Sys2Proof
end

