-- ==== Sys2Proof/WellFormed.lean ====
section
/-! DEFINITION. When a command is well formed (30_encoding.md R113). Every term of `Instr` is: its one operand, X, is
a single bit, and both values are legal. What can be ill formed is the 32-bit command word, and the four checks of
R113 are stated here on the word, apart from the decoder (Decode.lean). -/

namespace Sys2Proof

/-- Why a command word is illegal (R113). The block reports every one of them by the same code, ERR_ILLEGAL_CMD. -/
inductive IllegalCmd where
  /-- RSVD, word bits 31:16, is not 0. -/
  | reservedBits
  /-- OPCODE, word bits 7:0, is not in the opcode map. -/
  | unassignedOpcode
  /-- MOD, word bits 15:8, has a bit set that OPCODE does not define. -/
  | modifier
  deriving DecidableEq, Repr

/-- The opcodes of R112. -/
def assignedOpcodes : List Nat :=
  [0x00, 0x01, 0x02, 0x03, 0x10, 0x11, 0x20, 0x21, 0x30, 0x31, 0x40, 0x41]

/-- RSVD = 0 (R113, fourth item). -/
def rsvdClear (w : Word) : Bool := w.toNat / 2 ^ 16 == 0

/-- OPCODE is in the opcode map (R113, first item). -/
def opcodeAssigned (w : Word) : Bool := assignedOpcodes.contains (w.toNat % 2 ^ 8)

/-- MOD = 0 for every OPCODE other than 0x01 (R113, second item). -/
def modClear (w : Word) : Bool := w.toNat % 2 ^ 8 == 0x01 || w.toNat / 2 ^ 8 % 2 ^ 8 == 0

/-- MOD[7:1] = 0 for OPCODE 0x01 (R113, third item). -/
def kdfModClear (w : Word) : Bool := w.toNat % 2 ^ 8 != 0x01 || w.toNat / 2 ^ 9 % 2 ^ 7 == 0

/-- A command word is legal when none of the four conditions of R113 holds. -/
def legalWord (w : Word) : Bool := rsvdClear w && opcodeAssigned w && modClear w && kdfModClear w

/-- Every command is well formed: R113 forbids no value of X. -/
def Instr.wellFormed : Instr → Bool
  | .nop | .keyload | .keyclear | .aesEnc | .aesDec | .macGen | .macVerify => true
  | .pktEncode | .pktDecode | .sealPkt | .openPkt => true
  | .kdf x => x == false || x == true

end Sys2Proof
end

