-- ==== Sys2Proof/Decode.lean ====
section
/-! DEFINITION. The decoder of command words, total and rejecting by name, and the encoder (30_encoding.md R110 to
R113). A command is one 32-bit number in the CMD register: there are no lengths, prefixes or modes, and no byte
order, since byte order inside a register is not observable (20_memory.md R82). -/

namespace Sys2Proof

/-- OPCODE, bits 7:0 (R110). -/
def opcodeOf (w : Word) : BitVec 8 := w.extractLsb' 0 8

/-- MOD, bits 15:8 (R110). -/
def modOf (w : Word) : BitVec 8 := w.extractLsb' 8 8

/-- RSVD, bits 31:16 (R110). -/
def rsvdOf (w : Word) : BitVec 16 := w.extractLsb' 16 16

/-- The opcode map (R112). `x` is MOD[0], read by KDF only. -/
def opcodeInstr (opcode : Nat) (x : Bool) : Option Instr :=
  match opcode with
  | 0x00 => some .nop
  | 0x01 => some (.kdf x)
  | 0x02 => some .keyload
  | 0x03 => some .keyclear
  | 0x10 => some .aesEnc
  | 0x11 => some .aesDec
  | 0x20 => some .macGen
  | 0x21 => some .macVerify
  | 0x30 => some .pktEncode
  | 0x31 => some .pktDecode
  | 0x40 => some .sealPkt
  | 0x41 => some .openPkt
  | _ => none

/-- The part of MOD a command defines: MOD[0] for KDF, no bit for another (R110, R113). -/
def definedMod : Instr → BitVec 8
  | .kdf _ => 0x01
  | .nop | .keyload | .keyclear | .aesEnc | .aesDec | .macGen | .macVerify => 0x00
  | .pktEncode | .pktDecode | .sealPkt | .openPkt => 0x00

/-- The decoder: the command a word stands for, or why the word is illegal (R112, R113). -/
def decode (w : Word) : Except IllegalCmd Instr :=
  if rsvdOf w ≠ 0 then .error .reservedBits
  else
    match opcodeInstr (opcodeOf w).toNat ((modOf w).getLsbD 0) with
    | none => .error .unassignedOpcode
    | some i => if modOf w &&& ~~~definedMod i ≠ 0 then .error .modifier else .ok i

/-- The encoder: `enc(m)`, the word of R112. -/
def encode : Instr → Word
  | .nop => 0x00000000
  | .kdf false => 0x00000001
  | .kdf true => 0x00000101
  | .keyload => 0x00000002
  | .keyclear => 0x00000003
  | .aesEnc => 0x00000010
  | .aesDec => 0x00000011
  | .macGen => 0x00000020
  | .macVerify => 0x00000021
  | .pktEncode => 0x00000030
  | .pktDecode => 0x00000031
  | .sealPkt => 0x00000040
  | .openPkt => 0x00000041

/-- The decoder on an instruction whose bits are `w`, numbered as spec/opcode_table.json numbers them: every row is
one 32-bit word, and bits at or above `nbits` are 0. -/
def decodeTableWord (nbits w : Nat) : Option Instr :=
  (decode (BitVec.ofNat 32 (w % 2 ^ nbits))).toOption

end Sys2Proof
end

