-- ==== Sys2Proof/Machine/Bytes.lean ====
section
/-! DEFINITION. Byte strings (00_scope.md R8) and the conversions between byte strings and unsigned integers
(R9): `be_N`, `bytes_be_N`, `le_N`, `bytes_le_N`. A byte string is a list, index 0 first. -/

namespace Sys2Proof.Machine

/-- `bytes(n, v)`: the string of n bytes each equal to v (R8). -/
def bytes (n : Nat) (v : Byte) : List Byte := List.replicate n v

/-- `B[i..j)` (R8). -/
def slice (b : List Byte) (i j : Nat) : List Byte := (b.drop i).take (j - i)

/-- `be_N(B)`, the unsigned integer whose big-endian encoding is B (R9). -/
def beNat (b : List Byte) : Nat := b.foldl (fun acc x => acc * 256 + x.toNat) 0

/-- `bytes_be_N(v)`, the n = N/8 bytes of v, most significant first (R9). -/
def bytesBE : Nat → Nat → List Byte
  | 0, _ => []
  | n + 1, v => BitVec.ofNat 8 (v / 256 ^ n) :: bytesBE n v

/-- `le_N(B)`, the unsigned integer whose little-endian encoding is B (R9). -/
def leNat : List Byte → Nat
  | [] => 0
  | x :: b => x.toNat + 256 * leNat b

/-- `bytes_le_N(v)`, the n = N/8 bytes of v, least significant first (R9). -/
def bytesLE : Nat → Nat → List Byte
  | 0, _ => []
  | n + 1, v => BitVec.ofNat 8 v :: bytesLE n (v / 256)

/-- `A ⊕ B` on equal-length byte strings (R11). -/
def xorBytes (a b : List Byte) : List Byte := List.zipWith (· ^^^ ·) a b

/-- The first n blocks of k bytes of a string. -/
def blocks (k : Nat) : Nat → List Byte → List (List Byte)
  | 0, _ => []
  | n + 1, b => b.take k :: blocks k n (b.drop k)

end Sys2Proof.Machine
end

