-- ==== Sys2Proof/Machine/Aes.lean ====
section
/-! DEFINITION. AES-128 (41_crypto_primitives.md R196 to R204). -/

namespace Sys2Proof.Machine

/-! ### Arithmetic in GF(2^8) -/

/-- `xtime(b)`, b • 0x02 (R196). -/
def xtime (b : Byte) : Byte := (b <<< 1) ^^^ (if b.getLsbD 7 then 0x1b else 0x00)

/-- `b • c`: the XOR of `xtime^i(b)` over the set bits i of c (R196). Each step reads bit `i` of c. -/
def gfMulFrom (b c : Byte) : Nat → Byte
  | 0 => 0
  | n + 1 => (if c.getLsbD (7 - n) then b else 0) ^^^ gfMulFrom (xtime b) c n

/-- `b • c` (R196). -/
def gfMul (b c : Byte) : Byte := gfMulFrom b c 8

/-! ### The S-boxes -/

/-- The rows of the S-box, each the sixteen bytes of columns x0 to xF (R197). -/
def sboxRows : List (BitVec 128) :=
  [0x637c777bf26b6fc53001672bfed7ab76,
   0xca82c97dfa5947f0add4a2af9ca472c0,
   0xb7fd9326363ff7cc34a5e5f171d83115,
   0x04c723c31896059a071280e2eb27b275,
   0x09832c1a1b6e5aa0523bd6b329e32f84,
   0x53d100ed20fcb15b6acbbe394a4c58cf,
   0xd0efaafb434d338545f9027f503c9fa8,
   0x51a3408f929d38f5bcb6da2110fff3d2,
   0xcd0c13ec5f974417c4a77e3d645d1973,
   0x60814fdc222a908846eeb814de5e0bdb,
   0xe0323a0a4906245cc2d3ac629195e479,
   0xe7c8376d8dd54ea96c56f4ea657aae08,
   0xba78252e1ca6b4c6e8dd741f4bbd8b8a,
   0x703eb5664803f60e613557b986c11d9e,
   0xe1f8981169d98e949b1e87e9ce5528df,
   0x8ca1890dbfe6426841992d0fb054bb16]

/-- The rows of the inverse S-box (R198). -/
def invSboxRows : List (BitVec 128) :=
  [0x52096ad53036a538bf40a39e81f3d7fb,
   0x7ce339829b2fff87348e4344c4dee9cb,
   0x547b9432a6c2233dee4c950b42fac34e,
   0x082ea16628d924b2765ba2496d8bd125,
   0x72f8f66486689816d4a45ccc5d65b692,
   0x6c704850fdedb9da5e154657a78d9d84,
   0x90d8ab008cbcd30af7e45805b8b34506,
   0xd02c1e8fca3f0f02c1afbd0301138a6b,
   0x3a9111414f67dcea97f2cfcef0b4e673,
   0x96ac7422e7ad3585e2f937e81c75df6e,
   0x47f11a711d29c5896fb7620eaa18be1b,
   0xfc563e4bc6d279209adbc0fe78cd5af4,
   0x1fdda8338807c731b11210592780ec5f,
   0x60517fa919b54a0d2de57a9f93c99cef,
   0xa0e03b4dae2af5b0c8ebbb3c83539961,
   0x172b047eba77d626e169146355210c7d]

/-- The entry of a table at byte x = 16·row + column. -/
def tableByte (rows : List (BitVec 128)) (x : Byte) : Byte :=
  (rows.getD (x.toNat / 16) 0).extractLsb' (8 * (15 - x.toNat % 16)) 8

/-- `S[x]` (R197). -/
def sbox (x : Byte) : Byte := tableByte sboxRows x

/-- `S⁻¹[x]` (R198). -/
def invSbox (x : Byte) : Byte := tableByte invSboxRows x

/-! ### The state array -/

/-- One column of the state array: s[0][c] to s[3][c] (R201). -/
structure AesColumn where
  r0 : Byte
  r1 : Byte
  r2 : Byte
  r3 : Byte
  deriving DecidableEq, Repr

/-- The state array, by columns (R201). -/
structure AesState where
  c0 : AesColumn
  c1 : AesColumn
  c2 : AesColumn
  c3 : AesColumn
  deriving DecidableEq, Repr

/-- Column c of a block: `s[r][c] := B[r + 4c]` (R201). -/
def AesColumn.load (b : List Byte) (c : Nat) : AesColumn :=
  ⟨b.getD (4 * c) 0, b.getD (4 * c + 1) 0, b.getD (4 * c + 2) 0, b.getD (4 * c + 3) 0⟩

/-- `load(B)` (R201). -/
def AesState.load (b : List Byte) : AesState :=
  ⟨AesColumn.load b 0, AesColumn.load b 1, AesColumn.load b 2, AesColumn.load b 3⟩

/-- The bytes of a column, row 0 first. -/
def AesColumn.toBytes (a : AesColumn) : List Byte := [a.r0, a.r1, a.r2, a.r3]

/-- `unload(s)` (R201). -/
def AesState.unload (s : AesState) : List Byte :=
  s.c0.toBytes ++ s.c1.toBytes ++ s.c2.toBytes ++ s.c3.toBytes

/-- The same byte function on every row. -/
def AesColumn.map (f : Byte → Byte) (a : AesColumn) : AesColumn := ⟨f a.r0, f a.r1, f a.r2, f a.r3⟩

/-- The same column function on every column. -/
def AesState.mapColumns (f : AesColumn → AesColumn) (s : AesState) : AesState := ⟨f s.c0, f s.c1, f s.c2, f s.c3⟩

/-! ### Key expansion -/

/-- A word of the key schedule as the column it is added to: row 0 takes the most significant byte (R201). -/
def AesColumn.ofWord (w : BitVec 32) : AesColumn :=
  ⟨w.extractLsb' 24 8, w.extractLsb' 16 8, w.extractLsb' 8 8, w.extractLsb' 0 8⟩

/-- The word of a column, row 0 the most significant byte. -/
def AesColumn.toWord (a : AesColumn) : BitVec 32 := BitVec.ofNat 32 (beNat a.toBytes)

/-- `RotWord` (R200). -/
def rotWord (w : BitVec 32) : BitVec 32 := w.rotateLeft 8

/-- `SubWord` (R200). -/
def subWord (w : BitVec 32) : BitVec 32 := ((AesColumn.ofWord w).map sbox).toWord

/-- `Rcon[j] := xtime^(j−1)(0x01)`, for j = 1 .. 10 (R199). -/
def rcon (j : Nat) : Byte := xtime^[j - 1] 0x01

/-- The word `w[i]` for i ≥ 4, from `w[i−1]` and `w[i−4]` (R200). -/
def nextKeyWord (i : Nat) (prev back4 : BitVec 32) : BitVec 32 :=
  let t := if i % 4 = 0 then subWord (rotWord prev) ^^^ ((rcon (i / 4)).zeroExtend 32 <<< 24) else prev
  back4 ^^^ t

/-- `n` more words of the key schedule, the first of them w[i]; the words so far are held newest first. -/
def extendKey : Nat → Nat → List (BitVec 32) → List (BitVec 32)
  | 0, _, newest => newest.reverse
  | n + 1, i, newest => extendKey n (i + 1) (nextKeyWord i (newest.getD 0 0) (newest.getD 3 0) :: newest)

/-- `KeyExpansion(K)`, the words w[0..43] (R200). -/
def keyExpansion (k : List Byte) : List (BitVec 32) :=
  extendKey 40 4 (((blocks 4 4 k).map fun b => BitVec.ofNat 32 (beNat b)).reverse)

/-! ### The round transformations (R201, R202) -/

/-- `a ⊕ b` on columns. -/
def AesColumn.xor (a b : AesColumn) : AesColumn := ⟨a.r0 ^^^ b.r0, a.r1 ^^^ b.r1, a.r2 ^^^ b.r2, a.r3 ^^^ b.r3⟩

/-- `AddRoundKey(k)` with the key schedule `w` (R201). -/
def addRoundKey (w : List (BitVec 32)) (k : Nat) (s : AesState) : AesState :=
  ⟨s.c0.xor (AesColumn.ofWord (w.getD (4 * k) 0)), s.c1.xor (AesColumn.ofWord (w.getD (4 * k + 1) 0)),
   s.c2.xor (AesColumn.ofWord (w.getD (4 * k + 2) 0)), s.c3.xor (AesColumn.ofWord (w.getD (4 * k + 3) 0))⟩

/-- `SubBytes` (R202). -/
def subBytes (s : AesState) : AesState := s.mapColumns (AesColumn.map sbox)

/-- `InvSubBytes` (R202). -/
def invSubBytes (s : AesState) : AesState := s.mapColumns (AesColumn.map invSbox)

/-- `ShiftRows`: `s'[r][c] := s[r][(c + r) mod 4]` (R202). -/
def shiftRows (s : AesState) : AesState :=
  ⟨⟨s.c0.r0, s.c1.r1, s.c2.r2, s.c3.r3⟩, ⟨s.c1.r0, s.c2.r1, s.c3.r2, s.c0.r3⟩,
   ⟨s.c2.r0, s.c3.r1, s.c0.r2, s.c1.r3⟩, ⟨s.c3.r0, s.c0.r1, s.c1.r2, s.c2.r3⟩⟩

/-- `InvShiftRows`: `s'[r][(c + r) mod 4] := s[r][c]` (R202). -/
def invShiftRows (s : AesState) : AesState :=
  ⟨⟨s.c0.r0, s.c3.r1, s.c2.r2, s.c1.r3⟩, ⟨s.c1.r0, s.c0.r1, s.c3.r2, s.c2.r3⟩,
   ⟨s.c2.r0, s.c1.r1, s.c0.r2, s.c3.r3⟩, ⟨s.c3.r0, s.c2.r1, s.c1.r2, s.c0.r3⟩⟩

/-- One row of a matrix product over GF(2^8): `k0•a0 ⊕ k1•a1 ⊕ k2•a2 ⊕ k3•a3`. -/
def mixRow (k0 k1 k2 k3 : Byte) (a : AesColumn) : Byte :=
  gfMul a.r0 k0 ^^^ gfMul a.r1 k1 ^^^ gfMul a.r2 k2 ^^^ gfMul a.r3 k3

/-- `MixColumns` on one column (R202). -/
def mixColumn (a : AesColumn) : AesColumn :=
  ⟨mixRow 0x02 0x03 0x01 0x01 a, mixRow 0x01 0x02 0x03 0x01 a,
   mixRow 0x01 0x01 0x02 0x03 a, mixRow 0x03 0x01 0x01 0x02 a⟩

/-- `InvMixColumns` on one column (R202). -/
def invMixColumn (a : AesColumn) : AesColumn :=
  ⟨mixRow 0x0e 0x0b 0x0d 0x09 a, mixRow 0x09 0x0e 0x0b 0x0d a,
   mixRow 0x0d 0x09 0x0e 0x0b a, mixRow 0x0b 0x0d 0x09 0x0e a⟩

/-- `MixColumns` (R202). -/
def mixColumns (s : AesState) : AesState := s.mapColumns mixColumn

/-- `InvMixColumns` (R202). -/
def invMixColumns (s : AesState) : AesState := s.mapColumns invMixColumn

/-! ### The ciphers -/

/-- Round k of the forward cipher, 1 ≤ k ≤ 9 (R203). -/
def encRound (w : List (BitVec 32)) (k : Nat) (s : AesState) : AesState :=
  addRoundKey w k (mixColumns (shiftRows (subBytes s)))

/-- Round k of the inverse cipher, 1 ≤ k ≤ 9 (R204). -/
def decRound (w : List (BitVec 32)) (k : Nat) (s : AesState) : AesState :=
  invMixColumns (addRoundKey w k (invSubBytes (invShiftRows s)))

/-- Rounds 1 to n of the forward cipher, in that order. -/
def encRounds (w : List (BitVec 32)) : Nat → AesState → AesState
  | 0, s => s
  | n + 1, s => encRound w (n + 1) (encRounds w n s)

/-- Rounds n down to 1 of the inverse cipher. -/
def decRounds (w : List (BitVec 32)) : Nat → AesState → AesState
  | 0, s => s
  | n + 1, s => decRounds w n (decRound w (n + 1) s)

/-- The forward cipher on a state, with the key schedule `w` (R203). -/
def aesEncState (w : List (BitVec 32)) (s : AesState) : AesState :=
  addRoundKey w 10 (shiftRows (subBytes (encRounds w 9 (addRoundKey w 0 s))))

/-- The inverse cipher on a state, with the key schedule `w` (R204). -/
def aesDecState (w : List (BitVec 32)) (s : AesState) : AesState :=
  addRoundKey w 0 (invSubBytes (invShiftRows (decRounds w 9 (addRoundKey w 10 s))))

/-- `AESEnc(K, B)` (R203). -/
def aesEncBlock (k b : List Byte) : List Byte := (aesEncState (keyExpansion k) (AesState.load b)).unload

/-- `AESDec(K, B)` (R204). -/
def aesDecBlock (k b : List Byte) : List Byte := (aesDecState (keyExpansion k) (AesState.load b)).unload

end Sys2Proof.Machine
end

