-- ==== Sys2Proof/Machine/Cbc.lean ====
section
/-! DEFINITION. CBC mode and PKCS7 padding (41_crypto_primitives.md R206 to R209). -/

namespace Sys2Proof.Machine

/-- `Cᵢ := AESEnc(K, Pᵢ ⊕ Cᵢ₋₁)` along a list of blocks, `prev` being Cᵢ₋₁ (R206). -/
def cbcEncBlocks (k : List Byte) : List Byte → List (List Byte) → List (List Byte)
  | _, [] => []
  | prev, p :: ps =>
    let c := aesEncBlock k (xorBytes p prev)
    c :: cbcEncBlocks k c ps

/-- `Pᵢ := AESDec(K, Cᵢ) ⊕ Cᵢ₋₁` along a list of blocks, `prev` being Cᵢ₋₁ (R207). -/
def cbcDecBlocks (k : List Byte) : List Byte → List (List Byte) → List (List Byte)
  | _, [] => []
  | prev, c :: cs => xorBytes (aesDecBlock k c) prev :: cbcDecBlocks k c cs

/-- `CBCEnc(K, IV, P)`, |P| a positive multiple of 16 (R206). -/
def cbcEnc (k iv p : List Byte) : List Byte := (cbcEncBlocks k iv (blocks 16 (p.length / 16) p)).flatten

/-- `CBCDec(K, IV, C)`, |C| a positive multiple of 16 (R207). -/
def cbcDec (k iv c : List Byte) : List Byte := (cbcDecBlocks k iv (blocks 16 (c.length / 16) c)).flatten

/-- `p := 16 − (ℓ mod 16)`, 1 to 16 (R208). -/
def padLen (l : Nat) : Nat := 16 - l % 16

/-- `PKCS7Pad(P)` (R208). -/
def pkcs7Pad (p : List Byte) : List Byte := p ++ bytes (padLen p.length) (BitVec.ofNat 8 (padLen p.length))

/-- `PKCS7Check(D)`: the pad length, or none for `invalid` (R209). -/
def pkcs7Check (d : List Byte) : Option Nat :=
  let p := (d.getD (d.length - 1) 0).toNat
  if p = 0 ∨ p > 16 then none
  else if slice d (d.length - p) d.length ≠ bytes p (BitVec.ofNat 8 p) then none
  else some p

end Sys2Proof.Machine
end

