-- ==== Sys2Proof/Config.lean ====
section
/-! DEFINITION. What an implementation fixes (00_scope.md R7) and the one free value of the block
(20_memory.md R87, 93_implementation_defined.md U2). -/

namespace Sys2Proof

/-- The build parameters of R7. Every legal value of `P_BUF_BYTES` and of `P_BASE` is a value of this type and
no illegal one is: the machine carries one as a field that no step changes, so a statement about every state is a
statement about every build. -/
structure Config where
  /-- log2(`P_BUF_BYTES`) − 8: 0 to 8 for a buffer of 256 to 65536 bytes (R7, R37). -/
  sizeStep : Fin 9
  /-- `P_BASE` / 0x20000: `P_BASE` is any multiple of 0x20000 (R7, R88). -/
  baseIndex : Nat
  deriving DecidableEq, Repr

/-- The value a buffer-window read returns while a command is in flight: "any 32-bit value, a draw" (R87, U2).
The n-th draw of a run is `Config.drawWord n`. It has no body: nothing can evaluate it or prove a value of it. Two
runs share the one function, so at equal counts they draw alike: that is the model's choice, and a claim that compares the
draws of two runs holds for runs with the same draws only (log entry 4). -/
opaque Config.drawWord : Nat → Word

end Sys2Proof
end

