-- ==== Sys2Proof/Machine/State.lean ====
section
/-! DEFINITION. The state of the machine as plain data: every piece of state of 10_state.md R51, the build parameters
(00_scope.md R7), and the model's own fields (the schedule of the two agents, the last bus response, the draw counter);
the state after reset (70_reset_and_hazards.md R380); and the reasons a step can stop. -/

namespace Sys2Proof.Machine

/-- The error codes a command can end with: "A model may treat ERRCODE as ranging over the ten values" (R341). The
numbers are `ErrCode.code` in Flags.lean. -/
inductive ErrCode where
  | ok | illegalCmd | inputLen | bounds | overlap | noKey | malformedPacket | ctLength | auth | padding
  deriving DecidableEq, Repr

/-- The buffer's contents as a sparse list of cells (Ops.lean gives its canonical form, its read and its write). -/
abbrev Memory := List Host.Cell

/-- The size of a bus transaction: 1, 2 or 4 bytes (R80). -/
inductive Size where
  | byte | half | word
  deriving DecidableEq, Repr

/-- The direction of a bus transaction, with the data of a write (R80). -/
inductive Access where
  | read
  | write (wdata : Word)
  deriving DecidableEq, Repr

/-- A host transaction as the block sees it: a byte offset from `P_BASE` of the 17 bits the block decodes (R7, R80),
a size and a direction. -/
structure Txn where
  off : BitVec 17
  size : Size
  access : Access
  deriving DecidableEq, Repr

/-- The response line: OKAY or SLVERR (R80). -/
inductive RespCode where
  | okay | slverr
  deriving DecidableEq, Repr

/-- What the host receives: the response, and `rdata` when the transaction was a read (R80). -/
structure Response where
  code : RespCode
  rdata : Option Word
  deriving DecidableEq, Repr

/-- One move of the world around the block. The two agents interleave freely (R12), so the order of the moves is
data that the step reads. -/
inductive Event where
  /-- The Host issues one bus transaction at a host address (R12, R88). -/
  | bus (addr : Nat) (size : Size) (access : Access)
  /-- The Engine is given its turn: it completes the command in flight, if there is one (R12, R151). -/
  | engine
  /-- Reset, with the contents the buffer draws (R381, R383). -/
  | reset (drawn : List Host.Cell)
  deriving DecidableEq, Repr

/-- The machine. The fields down to `buf` are the tuple of R51; `cfg` holds the parameters of R7; `sched`, `resp`
and `draws` are the model's own. -/
structure State where
  /-- The build parameters (R7). No step changes them. -/
  cfg : Config
  /-- CTRL[3:0]: IE, TAG16, AUTOCLR, UNIFY from bit 0 up (R38). -/
  ctrl : BitVec 4
  /-- STATUS.BUSY, the phase (R31, R39). -/
  busy : Bool
  /-- STATUS.DONE (R39). -/
  done : Bool
  /-- STATUS.ACCERR (R39). -/
  accErr : Bool
  /-- STATUS.CMDREJ (R39). -/
  cmdRej : Bool
  /-- CMD: the last accepted command word (R40). -/
  cmd : Word
  /-- ERRCODE[7:0] (R41). -/
  errCode : ErrCode
  /-- OUT_LEN (R42). -/
  outLen : Word
  /-- SRC_ADDR (R30, R43). -/
  srcAddr : Word
  /-- SRC_LEN (R30, R43). -/
  srcLen : Word
  /-- DST_ADDR (R30, R43). -/
  dstAddr : Word
  /-- PUB_ADDR (R30, R43). -/
  pubAddr : Word
  /-- TAG_ADDR (R30, R43). -/
  tagAddr : Word
  /-- The key value K = key[IV] ∥ key[AESKEY] ∥ key[HMACKEY], 64 bytes (R45, R46). -/
  keys : List Byte
  /-- key[VALID] (R45). -/
  keyValid : Bool
  /-- BUF (R48). -/
  buf : Memory
  /-- The moves still to come, the next one first. When it is empty the Host is silent and the Engine has every turn. -/
  sched : List Event
  /-- The response to the last bus transaction; none before the first. -/
  resp : Option Response
  /-- How many unspecified values (R87) have been drawn. -/
  draws : Nat
  deriving DecidableEq, Repr

/-- A stop that is the machine's. The block itself has none: "The block has no state in which it hangs" (R13). -/
inductive Fault where
  /-- Raised by `step` for a bus transaction whose address lies outside the 128 KiB window at `P_BASE`, and by
  `hostStatement` for a window operand outside it. The block
  does not decode it and "the platform decides what they do" (R80, 93_implementation_defined.md U6, treatment
  refuse). Safe: the model says nothing about such an access. -/
  | addressNotDecoded
  deriving DecidableEq, Repr

/-- A stop for want of a meaning. -/
inductive Refusal where
  /-- Raised by an arm of `exec` whose command has no meaning in the model. No arm raises it: every command has a
  meaning. Safe. -/
  | notModelled (mnemonic : String)
  deriving DecidableEq, Repr

/-- Right after reset (R380): CTRL = 0b1100, every other register 0, the keys 64 zero bytes and not valid. The
parameters are those of every example of the spec (`P_BUF_BYTES` = 4096, log entry 1) and `P_BASE` = 0 (log entry 2);
the buffer, unspecified after reset (R381), lists nothing (log entry 3); nothing is scheduled (log entry 5). -/
def State.reset : State where
  cfg := { sizeStep := 4, baseIndex := 0 }
  ctrl := 0b1100
  busy := false
  done := false
  accErr := false
  cmdRej := false
  cmd := 0
  errCode := .ok
  outLen := 0
  srcAddr := 0
  srcLen := 0
  dstAddr := 0
  pubAddr := 0
  tagAddr := 0
  keys := List.replicate 64 0
  keyValid := false
  buf := []
  sched := []
  resp := none
  draws := 0

end Sys2Proof.Machine
end

