-- ==== Sys2Proof/Machine/Flags.lean ====
section
/-! DEFINITION. The fields of CTRL (10_state.md R38), the numbers of the error codes (60_exceptions.md R341), the
composition of STATUS (10_state.md R39, 40_host_interface.md R141), and the interrupt output (60_exceptions.md
R350). -/

namespace Sys2Proof.Machine

/-- CTRL.IE, bit 0: `irq` follows STATUS.DONE (R38). -/
def State.ie (s : State) : Bool := s.ctrl.getLsbD 0

/-- CTRL.TAG16, bit 1: T = 16 (R38). -/
def State.tag16 (s : State) : Bool := s.ctrl.getLsbD 1

/-- CTRL.AUTOCLR, bit 2: SEAL and OPEN end with a key clear (R38, R322). -/
def State.autoclr (s : State) : Bool := s.ctrl.getLsbD 2

/-- CTRL.UNIFY, bit 3: OPEN reports a padding failure as ERR_AUTH (R38, R324). -/
def State.unify (s : State) : Bool := s.ctrl.getLsbD 3

/-- The tag length T in bytes (R7, R51). -/
def State.tagLen (s : State) : Nat := if s.tag16 then 16 else 32

/-- The error codes' numbers (R341). -/
def ErrCode.code : ErrCode → BitVec 8
  | .ok => 0x00
  | .illegalCmd => 0x01
  | .inputLen => 0x02
  | .bounds => 0x03
  | .overlap => 0x04
  | .noKey => 0x05
  | .malformedPacket => 0x10
  | .ctLength => 0x11
  | .auth => 0x12
  | .padding => 0x13

/-- STATUS.ERR is always (ERRCODE ≠ 0) (R39, R51). -/
def State.statusErr (s : State) : Bool := s.errCode.code != 0

/-- STATUS.KEYS_VALID is always key[VALID] (R39, R51). -/
def State.keysValid (s : State) : Bool := s.keyValid

/-- A flag at bit `i` of a 32-bit register. -/
def flagAt (b : Bool) (i : Nat) : Word := BitVec.ofNat 32 (b.toNat * 2 ^ i)

/-- STATUS as the host reads it (R39, R141). -/
def State.status (s : State) : Word :=
  flagAt s.cmdRej 9 ||| flagAt s.accErr 8 ||| flagAt s.keysValid 3 ||| flagAt s.statusErr 2 |||
    flagAt s.done 1 ||| flagAt s.busy 0

/-- The interrupt output: `irq = CTRL.IE ∧ STATUS.DONE` (R350). -/
def State.irq (s : State) : Bool := s.ie && s.done

end Sys2Proof.Machine
end

