-- ==== Sys2Proof/Machine/Ops.lean ====
section
/-! DEFINITION. The named operations over memory and registers: the buffer's canonical form, its byte read and write,
the Engine's MemRead and MemWrite (00_scope.md R10); the key registers (10_state.md R46, 42_key_commands.md R243);
the acceptance of a command (40_host_interface.md R150); the end of a command, with or without an error, which is this
hardware's taking of an exception (40_host_interface.md R151, 60_exceptions.md R340, R346), and its acknowledgement,
which is this hardware's return from one (60_exceptions.md R347). -/

namespace Sys2Proof.Machine

/-- `P_BUF_BYTES` (R7). -/
def State.bufBytes (s : State) : Nat := 2 ^ (s.cfg.sizeStep.val + 8)

/-! ### The buffer -/

/-- What a byte of the buffer that the list does not name reads as. The spec leaves the buffer after reset
unspecified (R381): 0 is the model's choice (log entry 3). -/
def unlistedByte : Byte := 0

/-- `BUF[a]` (R48). -/
def Memory.readByte : Memory → Nat → Byte
  | [], _ => unlistedByte
  | (c, v) :: m, a => if a = c then v else Memory.readByte m a

/-- `BUF[a] <- b`, keeping the canonical form. -/
def Memory.writeByte : Memory → Nat → Byte → Memory
  | [], a, b => if b = unlistedByte then [] else [(a, b)]
  | (c, v) :: m, a, b =>
    if a < c then (if b = unlistedByte then (c, v) :: m else (a, b) :: (c, v) :: m)
    else if a = c then (if b = unlistedByte then m else (a, b) :: m)
    else (c, v) :: Memory.writeByte m a b

/-- `BUF[a..a+n)` (R8, R48). -/
def Memory.read (m : Memory) (a : Nat) : Nat → List Byte
  | 0 => []
  | n + 1 => m.readByte a :: Memory.read m (a + 1) n

/-- `BUF[a..a+|v|) <- v` (R10). -/
def Memory.write : Memory → Nat → List Byte → Memory
  | m, _, [] => m
  | m, a, b :: v => Memory.write (m.writeByte a b) (a + 1) v

/-- The canonical form: addresses strictly rising from `lo` up, no cell equal to what an unlisted byte reads as. -/
def Memory.wfFrom : Nat → Memory → Bool
  | _, [] => true
  | lo, (c, v) :: m => decide (lo ≤ c) && v != unlistedByte && Memory.wfFrom (c + 1) m

/-- The canonical form of a memory: equal contents are equal data. -/
def Memory.wf (m : Memory) : Bool := Memory.wfFrom 0 m

/-- Every cell lies below `n`. -/
def Memory.below (n : Nat) (m : Memory) : Bool := m.all fun c => decide (c.1 < n)

/-- The buffer of `n` bytes whose contents are drawn as `cells` (R381): cells outside the buffer draw nothing. -/
def Memory.drawn (n : Nat) (cells : List Host.Cell) : Memory :=
  cells.foldl (fun m c => if c.1 < n then m.writeByte c.1 c.2 else m) []

/-- The Engine's `MemRead(addr, n)` (R10). -/
def State.memRead (s : State) (addr n : Nat) : List Byte := s.buf.read addr n

/-- The Engine's `MemWrite(addr, |v|, v)` (R10). -/
def State.memWrite (s : State) (addr : Nat) (v : List Byte) : State := { s with buf := s.buf.write addr v }

/-! ### The key registers -/

/-- key[IV] = K[0..16) (R46). -/
def State.keyIV (s : State) : List Byte := slice s.keys 0 16

/-- key[AESKEY] = K[16..32) (R46). -/
def State.keyAES (s : State) : List Byte := slice s.keys 16 32

/-- key[HMACKEY] = K[32..64) (R46). -/
def State.keyHMAC (s : State) : List Byte := slice s.keys 32 64

/-- `K <- k; key[VALID] <- 1` (R46, R241, R242). -/
def State.keyLoad (s : State) (k : List Byte) : State := { s with keys := k, keyValid := true }

/-- `KeyClear()` (R46, R243). -/
def State.keyClear (s : State) : State := { s with keys := bytes 64 0, keyValid := false }

/-- AUTOCLR: a SEAL or OPEN ends with `KeyClear()` when CTRL.AUTOCLR = 1, whatever its ERRCODE (R151 step 4, R322). -/
def State.autoClear (s : State) : State := if s.autoclr then s.keyClear else s

/-! ### The life of a command -/

/-- `Accept(v)`: IDLE to BUSY (R150). -/
def State.accept (s : State) (v : Word) : State :=
  { s with cmd := v, busy := true, done := false, errCode := .ok, outLen := 0 }

/-- The register updates of every completion, BUSY to IDLE (R151). -/
def State.finish (s : State) (code : ErrCode) (out : Nat) : State :=
  { s with errCode := code, outLen := if code = .ok then BitVec.ofNat 32 out else 0, busy := false, done := true }

/-- `complete(out)`: the command ends with no error (R10). -/
def State.complete (s : State) (out : Nat) : State := s.finish .ok out

/-- `raise E`: the command ends at once with error E. This is the block's exception entry: it records ERRCODE,
clears OUT_LEN, sets DONE, and transfers no control (R340, R346). -/
def State.raiseErr (s : State) (e : ErrCode) : State := s.finish e 0

/-- Writing 1 to STATUS bit 1: the block's return from an exception. DONE and so `irq` drop; ERRCODE and OUT_LEN
stay (R347). -/
def State.acknowledge (s : State) : State := { s with done := false }

end Sys2Proof.Machine
end

