-- ==== Sys2Proof/Machine/Operands.lean ====
section
/-! DEFINITION. The operand forms of the commands: the regions their registers name (30_encoding.md R111, R118), the
derived sizes (R117), and the checks every command runs, in the order of 40_host_interface.md R154. Addresses and lengths
are unbounded integers: no sum wraps (00_scope.md R9). -/

namespace Sys2Proof.Machine

/-- A region (a, n): the bytes `BUF[a..a+n)` (R153). -/
structure Region where
  addr : Nat
  len : Nat
  deriving DecidableEq, Repr

/-- `InBounds(a, n)`: a + n ≤ `P_BUF_BYTES` (R153). -/
def State.inBounds (s : State) (r : Region) : Bool := decide (r.addr + r.len ≤ s.bufBytes)

/-- `Overlap((a, m), (b, n))` (R153). -/
def overlap (p q : Region) : Bool :=
  decide (p.len > 0) && decide (q.len > 0) && decide (p.addr < q.addr + q.len) && decide (q.addr < p.addr + p.len)

/-- `L`, SRC_LEN as an unbounded integer (R111). -/
def State.len (s : State) : Nat := s.srcLen.toNat

/-- The region of n bytes at SRC_ADDR. -/
def State.srcRegion (s : State) (n : Nat) : Region := ⟨s.srcAddr.toNat, n⟩

/-- The region of n bytes at DST_ADDR. -/
def State.dstRegion (s : State) (n : Nat) : Region := ⟨s.dstAddr.toNat, n⟩

/-- The sender public key: 33 bytes at PUB_ADDR. -/
def State.pubRegion (s : State) : Region := ⟨s.pubAddr.toNat, 33⟩

/-- A tag: T bytes at TAG_ADDR. -/
def State.tagRegion (s : State) : Region := ⟨s.tagAddr.toNat, s.tagLen⟩

/-- The contents of a region. -/
def State.readRegion (s : State) (r : Region) : List Byte := s.memRead r.addr r.len

/-- `N(P) = 16 · (P div 16 + 1)`, the ciphertext length of a P-byte plaintext (R117). -/
def paddedLen (p : Nat) : Nat := 16 * (p / 16 + 1)

/-- The bytes of a packet before its ciphertext: FLAG and the sender public key (R116). -/
def headerLen : Nat := 37

/-- `N = L − 37 − T`, the ciphertext length of an L-byte packet, read only where L ≥ 37 + T (R117, R302). -/
def packetCtLen (l t : Nat) : Nat := l - headerLen - t

/-- FLAG, `42 49 45 31`, "BIE1" (R14, R116). -/
def flagBytes : List Byte := [0x42, 0x49, 0x45, 0x31]

/-! ### The checks -/

/-- One check of R154: whether it fails, and the code it then raises. -/
abbrev Check := Bool × ErrCode

/-- The first check that fails decides (R154, R344). -/
def firstFail : List Check → Option ErrCode
  | [] => none
  | (fails, e) :: cs => if fails then some e else firstFail cs

/-- Check 2: SRC_LEN is the one length the command takes. -/
def State.lengthIs (s : State) (n : Nat) : Check := (s.len != n, .inputLen)

/-- Checks 3 and 5: a region lies in the buffer. -/
def State.within (s : State) (r : Region) : Check := (!s.inBounds r, .bounds)

/-- Check 4 for AES_DEC: the ciphertext is a positive number of blocks (R261). -/
def State.wholeBlocks (s : State) : Check := (s.len == 0 || s.len % 16 != 0, .ctLength)

/-- Check 4 for PKT_DECODE and OPEN: `DecodeChecks(A, n, T)`, run after `InBounds(A, n)` has passed (R302). -/
def State.decodeChecks (s : State) (r : Region) (t : Nat) : List Check :=
  [(decide (r.len < 69), .malformedPacket),
   (s.memRead r.addr 4 != flagBytes, .malformedPacket),
   (decide (r.len ≤ headerLen + t) || packetCtLen r.len t % 16 != 0, .ctLength)]

/-- Check 6: the output overlaps no input. -/
def apart (out inp : Region) : Check := (overlap out inp, .overlap)

/-- Check 7: the key registers are valid (R47). -/
def State.hasKey (s : State) : Check := (!s.keyValid, .noKey)

end Sys2Proof.Machine
end

