-- ==== Sys2Proof/Machine/CipherCommands.lean ====
section
/-! DEFINITION. The cipher commands AES_ENC and AES_DEC (43_cipher_commands.md R260, R261), and the two operations
they share with SEAL and OPEN: encryption with the key registers, and the end of a decryption. -/

namespace Sys2Proof.Machine

/-- `CBCEnc(key[AESKEY], key[IV], PKCS7Pad(P))` (R260, R320). -/
def State.encrypt (s : State) (p : List Byte) : List Byte := cbcEnc s.keyAES s.keyIV (pkcs7Pad p)

/-- `CBCDec(key[AESKEY], key[IV], C)` (R261, R321). -/
def State.decrypt (s : State) (c : List Byte) : List Byte := cbcDec s.keyAES s.keyIV c

/-- A decryption that fails closed: the whole output region is zero-filled, then `e` is raised (R261, R321). -/
def State.failClosed (s : State) (out : Region) (e : ErrCode) : State :=
  (s.memWrite out.addr (bytes out.len 0x00)).raiseErr e

/-- The end of a decryption whose decrypted bytes are `d`, |d| = the output region's length: the plaintext is written
without its padding, or, with bad padding, the command fails closed with `bad` (R261, R321). -/
def State.unpadTo (s : State) (out : Region) (d : List Byte) (bad : ErrCode) : State :=
  match pkcs7Check d with
  | none => s.failClosed out bad
  | some p => (s.memWrite out.addr (slice d 0 (out.len - p))).complete (out.len - p)

/-- The checks of AES_ENC (R260). -/
def aesEncChecks (s : State) : List Check :=
  [s.within (s.srcRegion s.len), s.within (s.dstRegion (paddedLen s.len)),
   apart (s.dstRegion (paddedLen s.len)) (s.srcRegion s.len), s.hasKey]

/-- AES_ENC (R260). -/
def execAesEnc (s : State) : Host.Outcome State Fault Refusal :=
  match firstFail (aesEncChecks s) with
  | some e => .next (s.raiseErr e)
  | none =>
    .next ((s.memWrite s.dstAddr.toNat (s.encrypt (s.readRegion (s.srcRegion s.len)))).complete (paddedLen s.len))

/-- The checks of AES_DEC before the computation (R261). -/
def aesDecChecks (s : State) : List Check :=
  [s.within (s.srcRegion s.len), s.wholeBlocks, s.within (s.dstRegion s.len),
   apart (s.dstRegion s.len) (s.srcRegion s.len), s.hasKey]

/-- AES_DEC (R261). -/
def execAesDec (s : State) : Host.Outcome State Fault Refusal :=
  match firstFail (aesDecChecks s) with
  | some e => .next (s.raiseErr e)
  | none =>
    .next (s.unpadTo (s.dstRegion s.len) (s.decrypt (s.readRegion (s.srcRegion s.len))) .padding)

end Sys2Proof.Machine
end

