-- ==== Sys2Proof/Machine/Sha2.lean ====
section
/-! DEFINITION. SHA-256 (41_crypto_primitives.md R181 to R185) and SHA-512 (R187 to R191). The two differ in the
word width, the constants, the amounts of the four rotation functions and the number of rounds; the schedule and
the compression are written once, over those. -/

namespace Sys2Proof.Machine

/-- `Ch` (R182, R188). -/
def shaCh {w : Nat} (x y z : BitVec w) : BitVec w := (x &&& y) ^^^ (~~~x &&& z)

/-- `Maj` (R182, R188). -/
def shaMaj {w : Nat} (x y z : BitVec w) : BitVec w := (x &&& y) ^^^ (x &&& z) ^^^ (y &&& z)

/-- `ROTR^a(x) ⊕ ROTR^b(x) ⊕ ROTR^c(x)`: the shape of Σ0 and Σ1 (R11, R182, R188). -/
def bigSigma {w : Nat} (a b c : Nat) (x : BitVec w) : BitVec w :=
  x.rotateRight a ^^^ x.rotateRight b ^^^ x.rotateRight c

/-- `ROTR^a(x) ⊕ ROTR^b(x) ⊕ SHR^c(x)`: the shape of σ0 and σ1 (R11, R182, R188). -/
def smallSigma {w : Nat} (a b c : Nat) (x : BitVec w) : BitVec w :=
  x.rotateRight a ^^^ x.rotateRight b ^^^ (x >>> c)

/-- One of the two hash functions: its word width, its four rotation functions, its round constants and its initial
hash value. -/
structure ShaVariant (w : Nat) where
  capSigma0 : BitVec w → BitVec w
  capSigma1 : BitVec w → BitVec w
  lowSigma0 : BitVec w → BitVec w
  lowSigma1 : BitVec w → BitVec w
  roundConstants : List (BitVec w)
  initial : List (BitVec w)

/-- The working variables a to h, or the hash value H[0] to H[7]. -/
structure ShaVars (w : Nat) where
  a : BitVec w
  b : BitVec w
  c : BitVec w
  d : BitVec w
  e : BitVec w
  f : BitVec w
  g : BitVec w
  h : BitVec w
  deriving DecidableEq, Repr

/-- `H[0] .. H[7]` from a list of eight words. -/
def ShaVars.ofWords {w : Nat} (l : List (BitVec w)) : ShaVars w :=
  ⟨l.getD 0 0, l.getD 1 0, l.getD 2 0, l.getD 3 0, l.getD 4 0, l.getD 5 0, l.getD 6 0, l.getD 7 0⟩

/-- The eight words, H[0] first. -/
def ShaVars.words {w : Nat} (v : ShaVars w) : List (BitVec w) := [v.a, v.b, v.c, v.d, v.e, v.f, v.g, v.h]

/-- `n` more words of the message schedule. The words so far are held newest first, so `W[t−2]`, `W[t−7]`,
`W[t−15]` and `W[t−16]` are the entries 1, 6, 14 and 15 (R185, R191). -/
def extendSchedule {w : Nat} (v : ShaVariant w) : Nat → List (BitVec w) → List (BitVec w)
  | 0, newest => newest.reverse
  | n + 1, newest =>
    extendSchedule v n
      ((v.lowSigma1 (newest.getD 1 0) + newest.getD 6 0 + v.lowSigma0 (newest.getD 14 0) + newest.getD 15 0) :: newest)

/-- The message schedule W of one block: the block's sixteen big-endian words, then the extension (R185, R191). -/
def messageSchedule {w : Nat} (v : ShaVariant w) (block : List Byte) : List (BitVec w) :=
  extendSchedule v (v.roundConstants.length - 16)
    (((blocks (w / 8) 16 block).map fun b => BitVec.ofNat w (beNat b)).reverse)

/-- One round, on its constant and its schedule word (R185, R191). -/
def shaRound {w : Nat} (v : ShaVariant w) (s : ShaVars w) (kw : BitVec w × BitVec w) : ShaVars w :=
  let t1 := s.h + v.capSigma1 s.e + shaCh s.e s.f s.g + kw.1 + kw.2
  let t2 := v.capSigma0 s.a + shaMaj s.a s.b s.c
  ⟨t1 + t2, s.a, s.b, s.c, s.d + t1, s.e, s.f, s.g⟩

/-- `H[j] + (a, .., h)[j]` (R185, R191). -/
def ShaVars.add {w : Nat} (p q : ShaVars w) : ShaVars w :=
  ⟨p.a + q.a, p.b + q.b, p.c + q.c, p.d + q.d, p.e + q.e, p.f + q.f, p.g + q.g, p.h + q.h⟩

/-- The hash value after one block (R185, R191). -/
def shaBlock {w : Nat} (v : ShaVariant w) (hash : ShaVars w) (block : List Byte) : ShaVars w :=
  hash.add ((v.roundConstants.zip (messageSchedule v block)).foldl (shaRound v) hash)

/-- `SHA256Pad` and `SHA512Pad`: M, the byte 0x80, the least number of zeros, and the length in bits as a `lenBytes`-byte
big-endian number, to whole blocks of `blockBytes` bytes (R181, R187). -/
def shaPad (blockBytes lenBytes : Nat) (m : List Byte) : List Byte :=
  let used := (m.length + 1) % blockBytes
  let k := (blockBytes - lenBytes + (blockBytes - used)) % blockBytes
  m ++ [0x80] ++ bytes k 0x00 ++ bytesBE lenBytes (8 * m.length)

/-- The hash of a message: its padded blocks in order, then the eight words big-endian (R185, R191). -/
def shaHash {w : Nat} (v : ShaVariant w) (m : List Byte) : List Byte :=
  let blockBytes := 2 * w
  let padded := shaPad blockBytes (w / 4) m
  let hash := (blocks blockBytes (padded.length / blockBytes) padded).foldl (shaBlock v) (ShaVars.ofWords v.initial)
  hash.words.flatMap fun x => bytesBE (w / 8) x.toNat

/-- The functions of R182, the constants K256 of R183 and the initial hash value of R184. -/
def sha256Variant : ShaVariant 32 where
  capSigma0 := bigSigma 2 13 22
  capSigma1 := bigSigma 6 11 25
  lowSigma0 := smallSigma 7 18 3
  lowSigma1 := smallSigma 17 19 10
  roundConstants :=
  [0x428a2f98, 0x71374491, 0xb5c0fbcf, 0xe9b5dba5, 0x3956c25b, 0x59f111f1, 0x923f82a4, 0xab1c5ed5] ++
  [0xd807aa98, 0x12835b01, 0x243185be, 0x550c7dc3, 0x72be5d74, 0x80deb1fe, 0x9bdc06a7, 0xc19bf174] ++
  [0xe49b69c1, 0xefbe4786, 0x0fc19dc6, 0x240ca1cc, 0x2de92c6f, 0x4a7484aa, 0x5cb0a9dc, 0x76f988da] ++
  [0x983e5152, 0xa831c66d, 0xb00327c8, 0xbf597fc7, 0xc6e00bf3, 0xd5a79147, 0x06ca6351, 0x14292967] ++
  [0x27b70a85, 0x2e1b2138, 0x4d2c6dfc, 0x53380d13, 0x650a7354, 0x766a0abb, 0x81c2c92e, 0x92722c85] ++
  [0xa2bfe8a1, 0xa81a664b, 0xc24b8b70, 0xc76c51a3, 0xd192e819, 0xd6990624, 0xf40e3585, 0x106aa070] ++
  [0x19a4c116, 0x1e376c08, 0x2748774c, 0x34b0bcb5, 0x391c0cb3, 0x4ed8aa4a, 0x5b9cca4f, 0x682e6ff3] ++
  [0x748f82ee, 0x78a5636f, 0x84c87814, 0x8cc70208, 0x90befffa, 0xa4506ceb, 0xbef9a3f7, 0xc67178f2]
  initial := [0x6a09e667, 0xbb67ae85, 0x3c6ef372, 0xa54ff53a, 0x510e527f, 0x9b05688c, 0x1f83d9ab, 0x5be0cd19]

/-- The functions of R188, the constants K512 of R189 and the initial hash value of R190. -/
def sha512Variant : ShaVariant 64 where
  capSigma0 := bigSigma 28 34 39
  capSigma1 := bigSigma 14 18 41
  lowSigma0 := smallSigma 1 8 7
  lowSigma1 := smallSigma 19 61 6
  roundConstants :=
  [0x428a2f98d728ae22, 0x7137449123ef65cd, 0xb5c0fbcfec4d3b2f, 0xe9b5dba58189dbbc] ++
  [0x3956c25bf348b538, 0x59f111f1b605d019, 0x923f82a4af194f9b, 0xab1c5ed5da6d8118] ++
  [0xd807aa98a3030242, 0x12835b0145706fbe, 0x243185be4ee4b28c, 0x550c7dc3d5ffb4e2] ++
  [0x72be5d74f27b896f, 0x80deb1fe3b1696b1, 0x9bdc06a725c71235, 0xc19bf174cf692694] ++
  [0xe49b69c19ef14ad2, 0xefbe4786384f25e3, 0x0fc19dc68b8cd5b5, 0x240ca1cc77ac9c65] ++
  [0x2de92c6f592b0275, 0x4a7484aa6ea6e483, 0x5cb0a9dcbd41fbd4, 0x76f988da831153b5] ++
  [0x983e5152ee66dfab, 0xa831c66d2db43210, 0xb00327c898fb213f, 0xbf597fc7beef0ee4] ++
  [0xc6e00bf33da88fc2, 0xd5a79147930aa725, 0x06ca6351e003826f, 0x142929670a0e6e70] ++
  [0x27b70a8546d22ffc, 0x2e1b21385c26c926, 0x4d2c6dfc5ac42aed, 0x53380d139d95b3df] ++
  [0x650a73548baf63de, 0x766a0abb3c77b2a8, 0x81c2c92e47edaee6, 0x92722c851482353b] ++
  [0xa2bfe8a14cf10364, 0xa81a664bbc423001, 0xc24b8b70d0f89791, 0xc76c51a30654be30] ++
  [0xd192e819d6ef5218, 0xd69906245565a910, 0xf40e35855771202a, 0x106aa07032bbd1b8] ++
  [0x19a4c116b8d2d0c8, 0x1e376c085141ab53, 0x2748774cdf8eeb99, 0x34b0bcb5e19b48a8] ++
  [0x391c0cb3c5c95a63, 0x4ed8aa4ae3418acb, 0x5b9cca4f7763e373, 0x682e6ff3d6b2b8a3] ++
  [0x748f82ee5defb2fc, 0x78a5636f43172f60, 0x84c87814a1f0ab72, 0x8cc702081a6439ec] ++
  [0x90befffa23631e28, 0xa4506cebde82bde9, 0xbef9a3f7b2c67915, 0xc67178f2e372532b] ++
  [0xca273eceea26619c, 0xd186b8c721c0c207, 0xeada7dd6cde0eb1e, 0xf57d4f7fee6ed178] ++
  [0x06f067aa72176fba, 0x0a637dc5a2c898a6, 0x113f9804bef90dae, 0x1b710b35131c471b] ++
  [0x28db77f523047d84, 0x32caab7b40c72493, 0x3c9ebe0a15c9bebc, 0x431d67c49c100d4c] ++
  [0x4cc5d4becb3e42b6, 0x597f299cfc657e2a, 0x5fcb6fab3ad6faec, 0x6c44198c4a475817]
  initial := [0x6a09e667f3bcc908, 0xbb67ae8584caa73b, 0x3c6ef372fe94f82b, 0xa54ff53a5f1d36f1,
    0x510e527fade682d1, 0x9b05688c2b3e6c1f, 0x1f83d9abfb41bd6b, 0x5be0cd19137e2179]

/-- `SHA256(M)`, 32 bytes (R185). -/
def sha256 (m : List Byte) : List Byte := shaHash sha256Variant m

/-- `SHA512(M)`, 64 bytes (R191). -/
def sha512 (m : List Byte) : List Byte := shaHash sha512Variant m

/-- `DeriveKeys(S)`: the 64-byte key value IV ∥ AESKEY ∥ HMACKEY is the whole digest (R210). -/
def deriveKeys (secret : List Byte) : List Byte := sha512 secret

end Sys2Proof.Machine
end

