-- ==== Sys2Proof/Machine/KeyCommands.lean ====
section
/-! DEFINITION. The key commands NOP, KDF, KEYLOAD and KEYCLEAR (42_key_commands.md R240 to R243). A meaning is
the whole Engine step of its command: its body, then the completion updates of 40_host_interface.md R151. -/

namespace Sys2Proof.Machine

/-- NOP (R240). -/
def execNop (s : State) : Host.Outcome State Fault Refusal := .next (s.complete 0)

/-- The checks of KDF; the output checks apply with X = 1 only (R241). -/
def kdfChecks (x : Bool) (s : State) : List Check :=
  [s.lengthIs 33, s.within (s.srcRegion 33)] ++
    if x then [s.within (s.dstRegion 64), apart (s.dstRegion 64) (s.srcRegion 33)] else []

/-- KDF and KDF.X (R241). -/
def execKdf (x : Bool) (s : State) : Host.Outcome State Fault Refusal :=
  match firstFail (kdfChecks x s) with
  | some e => .next (s.raiseErr e)
  | none =>
    let h := deriveKeys (s.readRegion (s.srcRegion 33))
    if x then .next (((s.keyLoad h).memWrite s.dstAddr.toNat h).complete 64)
    else .next ((s.keyLoad h).complete 0)

/-- The checks of KEYLOAD (R242). -/
def keyloadChecks (s : State) : List Check := [s.lengthIs 64, s.within (s.srcRegion 64)]

/-- KEYLOAD (R242). -/
def execKeyload (s : State) : Host.Outcome State Fault Refusal :=
  match firstFail (keyloadChecks s) with
  | some e => .next (s.raiseErr e)
  | none => .next ((s.keyLoad (s.readRegion (s.srcRegion 64))).complete 0)

/-- KEYCLEAR (R243). -/
def execKeyclear (s : State) : Host.Outcome State Fault Refusal := .next (s.keyClear.complete 0)

end Sys2Proof.Machine
end

