-- ==== Sys2Proof/Machine/Hmac.lean ====
section
/-! DEFINITION. HMAC-SHA256, tags, and the constant-time comparison's value (41_crypto_primitives.md R193 to R195). -/

namespace Sys2Proof.Machine

/-- `K0`: the 32-byte key padded with zeros to the 64-byte block (R193). -/
def hmacKeyBlock (key : List Byte) : List Byte := key ++ bytes 32 0x00

/-- `HMAC256(K, M)`, 32 bytes (R193). -/
def hmac256 (key m : List Byte) : List Byte :=
  sha256 (xorBytes (hmacKeyBlock key) (bytes 64 0x5c) ++
    sha256 (xorBytes (hmacKeyBlock key) (bytes 64 0x36) ++ m))

/-- `Tag(K, M, T)`: the first T bytes of the HMAC (R194). -/
def macTag (key m : List Byte) (t : Nat) : List Byte := slice (hmac256 key m) 0 t

/-- `CTEq(A, B)`: the OR of the bytewise differences is 0 (R195). -/
def ctEq (a b : List Byte) : Bool := (xorBytes a b).foldl (· ||| ·) 0 == 0

end Sys2Proof.Machine
end

