-- ==== Sys2Proof/Machine/MacCommands.lean ====
section
/-! DEFINITION. The authenticator commands MAC_GEN and MAC_VERIFY (44_mac_commands.md R280, R281). -/

namespace Sys2Proof.Machine

/-- The tag of a message under key[HMACKEY], T bytes (R194, R280). -/
def State.tagOf (s : State) (m : List Byte) : List Byte := macTag s.keyHMAC m s.tagLen

/-- The checks of MAC_GEN (R280). -/
def macGenChecks (s : State) : List Check :=
  [s.within (s.srcRegion s.len), s.within (s.dstRegion s.tagLen),
   apart (s.dstRegion s.tagLen) (s.srcRegion s.len), s.hasKey]

/-- MAC_GEN (R280). -/
def execMacGen (s : State) : Host.Outcome State Fault Refusal :=
  match firstFail (macGenChecks s) with
  | some e => .next (s.raiseErr e)
  | none =>
    .next ((s.memWrite s.dstAddr.toNat (s.tagOf (s.readRegion (s.srcRegion s.len)))).complete s.tagLen)

/-- The checks of MAC_VERIFY before the computation (R281). -/
def macVerifyChecks (s : State) : List Check :=
  [s.within (s.srcRegion s.len), s.within s.tagRegion, s.hasKey]

/-- MAC_VERIFY (R281). -/
def execMacVerify (s : State) : Host.Outcome State Fault Refusal :=
  match firstFail (macVerifyChecks s) with
  | some e => .next (s.raiseErr e)
  | none =>
    if ctEq (s.tagOf (s.readRegion (s.srcRegion s.len))) (s.readRegion s.tagRegion) then .next (s.complete 0)
    else .next (s.raiseErr .auth)

end Sys2Proof.Machine
end

