-- ==== Sys2Proof/Machine/PacketCommands.lean ====
section
/-! DEFINITION. The packet codec commands PKT_ENCODE and PKT_DECODE (45_packet_commands.md R300, R301). -/

namespace Sys2Proof.Machine

/-- `M = 37 + L + T`, the length of the packet PKT_ENCODE writes (R300). -/
def State.encodedLen (s : State) : Nat := headerLen + s.len + s.tagLen

/-- The checks of PKT_ENCODE (R300). -/
def pktEncodeChecks (s : State) : List Check :=
  [s.within (s.srcRegion s.len), s.within s.pubRegion, s.within s.tagRegion,
   s.within (s.dstRegion s.encodedLen), apart (s.dstRegion s.encodedLen) (s.srcRegion s.len),
   apart (s.dstRegion s.encodedLen) s.pubRegion, apart (s.dstRegion s.encodedLen) s.tagRegion]

/-- PKT_ENCODE (R300). -/
def execPktEncode (s : State) : Host.Outcome State Fault Refusal :=
  match firstFail (pktEncodeChecks s) with
  | some e => .next (s.raiseErr e)
  | none =>
    .next ((s.memWrite s.dstAddr.toNat
      (flagBytes ++ s.readRegion s.pubRegion ++ s.readRegion (s.srcRegion s.len) ++ s.readRegion s.tagRegion)).complete
      s.encodedLen)

/-- The checks of PKT_DECODE (R301). -/
def pktDecodeChecks (s : State) : List Check :=
  s.within (s.srcRegion s.len) :: s.decodeChecks (s.srcRegion s.len) s.tagLen

/-- PKT_DECODE (R301). -/
def execPktDecode (s : State) : Host.Outcome State Fault Refusal :=
  match firstFail (pktDecodeChecks s) with
  | some e => .next (s.raiseErr e)
  | none => .next (s.complete (packetCtLen s.len s.tagLen))

end Sys2Proof.Machine
end

