-- ==== Sys2Proof/Machine/ProtocolCommands.lean ====
section
/-! DEFINITION. The protocol commands SEAL and OPEN (46_protocol_commands.md R320 to R324). Each ends with AUTOCLR,
whatever its ERRCODE (40_host_interface.md R151 step 4, R322). -/

namespace Sys2Proof.Machine

/-- `M = 37 + n + T`, the length of the packet SEAL writes (R117, R320). -/
def State.sealedLen (s : State) : Nat := headerLen + paddedLen s.len + s.tagLen

/-- The checks of SEAL (R320). -/
def sealChecks (s : State) : List Check :=
  [s.within (s.srcRegion s.len), s.within s.pubRegion, s.within (s.dstRegion s.sealedLen),
   apart (s.dstRegion s.sealedLen) (s.srcRegion s.len), apart (s.dstRegion s.sealedLen) s.pubRegion, s.hasKey]

/-- The pre-tag prefix `FLAG ∥ SenderPubKey ∥ Ciphertext` of the packet SEAL writes (R320). -/
def State.sealedPrefix (s : State) : List Byte :=
  flagBytes ++ s.readRegion s.pubRegion ++ s.encrypt (s.readRegion (s.srcRegion s.len))

/-- The body of SEAL (R320). -/
def sealBody (s : State) : State :=
  match firstFail (sealChecks s) with
  | some e => s.raiseErr e
  | none => (s.memWrite s.dstAddr.toNat (s.sealedPrefix ++ s.tagOf s.sealedPrefix)).complete s.sealedLen

/-- SEAL (R320, R322). -/
def execSeal (s : State) : Host.Outcome State Fault Refusal := .next (sealBody s).autoClear

/-- The ciphertext length N of the packet OPEN reads (R302, R321). -/
def State.openedLen (s : State) : Nat := packetCtLen s.len s.tagLen

/-- The checks of OPEN before the computation (R321). -/
def openChecks (s : State) : List Check :=
  s.within (s.srcRegion s.len) :: s.decodeChecks (s.srcRegion s.len) s.tagLen ++
    [s.within (s.dstRegion s.openedLen), apart (s.dstRegion s.openedLen) (s.srcRegion s.len), s.hasKey]

/-- The code of a padding failure of OPEN (R324). -/
def State.openPaddingCode (s : State) : ErrCode := if s.unify then .auth else .padding

/-- The body of OPEN: structure, then the tag, then, only with a right tag, the decryption (R321). -/
def openBody (s : State) : State :=
  match firstFail (openChecks s) with
  | some e => s.raiseErr e
  | none =>
    let a := s.srcAddr.toNat
    let n := s.openedLen
    if ctEq (s.tagOf (s.memRead a (headerLen + n))) (s.memRead (a + headerLen + n) s.tagLen) then
      s.unpadTo (s.dstRegion n) (s.decrypt (s.memRead (a + headerLen) n)) s.openPaddingCode
    else s.failClosed (s.dstRegion n) .auth

/-- OPEN (R321, R322). -/
def execOpen (s : State) : Host.Outcome State Fault Refusal := .next (openBody s).autoClear

end Sys2Proof.Machine
end

