-- ==== Sys2Proof/Machine/Dispatch.lean ====
section
/-! DEFINITION. The meaning of each command: one arm per constructor of `Instr` (40_host_interface.md R151, Exec step 3). -/

namespace Sys2Proof.Machine

def exec (i : Instr) (s : State) : Host.Outcome State Fault Refusal :=
  match i with
  | .nop => Sys2Proof.Machine.execNop s
  | .kdf x => Sys2Proof.Machine.execKdf x s
  | .keyload => Sys2Proof.Machine.execKeyload s
  | .keyclear => Sys2Proof.Machine.execKeyclear s
  | .aesEnc => Sys2Proof.Machine.execAesEnc s
  | .aesDec => Sys2Proof.Machine.execAesDec s
  | .macGen => Sys2Proof.Machine.execMacGen s
  | .macVerify => Sys2Proof.Machine.execMacVerify s
  | .pktEncode => Sys2Proof.Machine.execPktEncode s
  | .pktDecode => Sys2Proof.Machine.execPktDecode s
  | .sealPkt => Sys2Proof.Machine.execSeal s
  | .openPkt => Sys2Proof.Machine.execOpen s

end Sys2Proof.Machine
end

