-- ==== Sys2Proof/Machine/HostBus.lean ====
section
/-! DEFINITION. The Host's step: one bus transaction (40_host_interface.md R140 to R142; 10_state.md R35 to R44;
20_memory.md R80 to R89). -/

namespace Sys2Proof.Machine

/-- The registers of R35. -/
inductive Register where
  | id | version | cap | ctrl | status | cmd | errCode | outLen | srcAddr | srcLen | dstAddr | pubAddr | tagAddr
  deriving DecidableEq, Repr

/-- The offset of a register (R35). -/
def Register.offset : Register → Nat
  | .id => 0x000
  | .version => 0x004
  | .cap => 0x008
  | .ctrl => 0x00C
  | .status => 0x010
  | .cmd => 0x014
  | .errCode => 0x018
  | .outLen => 0x01C
  | .srcAddr => 0x020
  | .srcLen => 0x024
  | .dstAddr => 0x028
  | .pubAddr => 0x02C
  | .tagAddr => 0x030

/-- The register at an aligned offset of the register space; none at the reserved offsets 0x034 to 0xFFFC (R35, R44). -/
def registerAt (off : Nat) : Option Register :=
  match off with
  | 0x000 => some .id
  | 0x004 => some .version
  | 0x008 => some .cap
  | 0x00C => some .ctrl
  | 0x010 => some .status
  | 0x014 => some .cmd
  | 0x018 => some .errCode
  | 0x01C => some .outLen
  | 0x020 => some .srcAddr
  | 0x024 => some .srcLen
  | 0x028 => some .dstAddr
  | 0x02C => some .pubAddr
  | 0x030 => some .tagAddr
  | _ => none

/-- ID and VERSION (R36). -/
def idValue : Word := 0x42494531
def versionValue : Word := 0x00000001

/-- CAP: BUF_LOG2 in bits 4:0, TAG16_SUP = 1 in bit 8 (R37). -/
def State.capValue (s : State) : Word := BitVec.ofNat 32 (2 ^ 8 + (s.cfg.sizeStep.val + 8))

/-- `RegValue` on a defined register (R141). -/
def State.regValue (s : State) : Register → Word
  | .id => idValue
  | .version => versionValue
  | .cap => s.capValue
  | .ctrl => s.ctrl.zeroExtend 32
  | .status => s.status
  | .cmd => s.cmd
  | .errCode => s.errCode.code.zeroExtend 32
  | .outLen => s.outLen
  | .srcAddr => s.srcAddr
  | .srcLen => s.srcLen
  | .dstAddr => s.dstAddr
  | .pubAddr => s.pubAddr
  | .tagAddr => s.tagAddr

/-- `RegValue(off)`: a reserved offset reads as 0 (R44, R141). -/
def State.readReg (s : State) (off : Nat) : Word :=
  match registerAt off with
  | some r => s.regValue r
  | none => 0

/-- A write of CTRL or of an operand register: dropped and recorded in ACCERR while a command is in flight (R38, R43). -/
def State.unlessBusy (s : State) (written : State) : State := if s.busy then { s with accErr := true } else written

/-- A write of STATUS clears each W1C bit written as 1 (R39, R142). -/
def State.writeStatus (s : State) (v : Word) : State :=
  let s := if v.getLsbD 1 then s.acknowledge else s
  let s := if v.getLsbD 8 then { s with accErr := false } else s
  if v.getLsbD 9 then { s with cmdRej := false } else s

/-- A write of CMD: a command issue, or a rejection while a command is in flight (R40, R142). -/
def State.writeCmd (s : State) (v : Word) : State := if s.busy then { s with cmdRej := true } else s.accept v

/-- `RegWrite` on a defined register; the read-only ones ignore it (R142). -/
def State.regWrite (s : State) (v : Word) : Register → State
  | .ctrl => s.unlessBusy { s with ctrl := v.extractLsb' 0 4 }
  | .status => s.writeStatus v
  | .cmd => s.writeCmd v
  | .srcAddr => s.unlessBusy { s with srcAddr := v }
  | .srcLen => s.unlessBusy { s with srcLen := v }
  | .dstAddr => s.unlessBusy { s with dstAddr := v }
  | .pubAddr => s.unlessBusy { s with pubAddr := v }
  | .tagAddr => s.unlessBusy { s with tagAddr := v }
  | .id | .version | .cap | .errCode | .outLen => s

/-- `RegWrite(off, v)`: a reserved offset ignores it (R44, R142). -/
def State.writeReg (s : State) (off : Nat) (v : Word) : State :=
  match registerAt off with
  | some r => s.regWrite v r
  | none => s

/-! ### Transactions -/

/-- `sz` in bytes (R80). -/
def Size.toNat : Size → Nat
  | .byte => 1
  | .half => 2
  | .word => 4

/-- An SLVERR response: `rdata = 0` for a read (R84, R85). -/
def Access.slverr : Access → Response
  | .read => ⟨.slverr, some 0⟩
  | .write _ => ⟨.slverr, none⟩

/-- An OKAY response with `v` as the data of a read (R80). -/
def Access.okay (v : Word) : Access → Response
  | .read => ⟨.okay, some v⟩
  | .write _ => ⟨.okay, none⟩

/-- A transaction in the register space, `off` < 0x10000: only aligned 32-bit transactions are legal (R84, R140). -/
def State.registerTxn (s : State) (t : Txn) : Response × State :=
  if t.size ≠ .word ∨ t.off.toNat % 4 ≠ 0 then (t.access.slverr, s)
  else
    match t.access with
    | .read => (⟨.okay, some (s.readReg t.off.toNat)⟩, s)
    | .write v => (⟨.okay, none⟩, s.writeReg t.off.toNat v)

/-- A transaction that reaches buffer bytes while a command is in flight: the read's data is a draw, the write is
dropped, and ACCERR records either (R87). -/
def State.refusedBufferTxn (s : State) : Access → Response × State
  | .read => (⟨.okay, some (Config.drawWord s.draws)⟩, { s with accErr := true, draws := s.draws + 1 })
  | .write _ => (⟨.okay, none⟩, { s with accErr := true })

/-- A transaction that reaches the buffer bytes `BUF[a..a+sz)` while no command is in flight, on little-endian lanes
(R81, R82). -/
def State.bufferTxn (s : State) (a : Nat) (size : Size) : Access → Response × State
  | .read => (⟨.okay, some (BitVec.ofNat 32 (leNat (s.buf.read a size.toNat)))⟩, s)
  | .write v => (⟨.okay, none⟩, { s with buf := s.buf.write a (bytesLE size.toNat v.toNat) })

/-- A transaction in the buffer window, `off` = 0x10000 + a: natural alignment, and RAZ/WI beyond the buffer
(R81, R85, R140). -/
def State.windowTxn (s : State) (t : Txn) : Response × State :=
  let a := t.off.toNat - 0x10000
  if t.off.toNat % t.size.toNat ≠ 0 then (t.access.slverr, s)
  else if a ≥ s.bufBytes then (t.access.okay 0, s)
  else if s.busy then s.refusedBufferTxn t.access
  else s.bufferTxn a t.size t.access

/-- `HostStep(txn)`: the response and the block's next state (R140). -/
def State.hostStep (s : State) (t : Txn) : Response × State :=
  if t.off.toNat < 0x10000 then s.registerTxn t else s.windowTxn t

/-- A transaction with its response recorded as the last one. -/
def State.transact (s : State) (t : Txn) : State :=
  { (s.hostStep t).2 with resp := some (s.hostStep t).1 }

/-- `P_BASE` (R7, R88). -/
def State.pBase (s : State) : Nat := 0x20000 * s.cfg.baseIndex

/-- The offset of a host address in the 128 KiB window, if the block decodes it (R80, R88). -/
def State.windowOffset (s : State) (addr : Nat) : Option (BitVec 17) :=
  if s.pBase ≤ addr ∧ addr < s.pBase + 0x20000 then some (BitVec.ofNat 17 (addr - s.pBase)) else none

end Sys2Proof.Machine
end

