-- ==== Sys2Proof/Machine/Engine.lean ====
section
/-! DEFINITION. The moves of the machine other than a bus transaction, and the choice between them: the Engine's step
(40_host_interface.md R151), reset (70_reset_and_hazards.md R380 to R383), and the interleaving of the two agents
(00_scope.md R12). -/

namespace Sys2Proof.Machine

/-- The Engine's step, "enabled exactly when BUSY = 1": it completes the command in CMD, and an illegal word completes
with ERR_ILLEGAL_CMD and no other effect (R113, R151). With no command in flight the Engine has no step (R12). -/
def State.engineStep (s : State) : Host.Outcome State Fault Refusal :=
  if s.busy then
    match decode s.cmd with
    | .error _ => .next (s.raiseErr .illegalCmd)
    | .ok i => exec i s
  else .next s

/-- Reset as a transition: the state of R380, with the buffer drawn as `cells` (R381 to R383). What is not the block's own
stays: the parameters, the moves to come, the last response and the count of draws. -/
def State.resetWith (s : State) (cells : List Host.Cell) : State :=
  { State.reset with
    cfg := s.cfg
    buf := Memory.drawn s.bufBytes cells
    sched := s.sched
    resp := s.resp
    draws := s.draws }

/-- A bus transaction at a host address; the block does not decode an address outside its window (R80, R88). -/
def State.busStep (s : State) (addr : Nat) (size : Size) (access : Access) : Host.Outcome State Fault Refusal :=
  match s.windowOffset addr with
  | none => .fault .addressNotDecoded
  | some off => .next (s.transact ⟨off, size, access⟩)

/-- One scheduled move (R12). -/
def State.move (s : State) : Event → Host.Outcome State Fault Refusal
  | .bus addr size access => s.busStep addr size access
  | .engine => s.engineStep
  | .reset cells => .next (s.resetWith cells)

/-- One step: the next scheduled move, or, when the Host is silent, the Engine's turn (R12: "a command in flight
eventually completes"). -/
def State.advance (s : State) : Host.Outcome State Fault Refusal :=
  match s.sched with
  | [] => s.engineStep
  | e :: rest => ({ s with sched := rest }).move e

/-- The command word `w` placed in flight, as an acceptance places it (R150), with the next turn the Engine's. An empty
schedule gives the Engine every turn already. -/
def State.placeCommand (s : State) (w : Word) : State :=
  { s.accept w with
    sched := match s.sched with
      | [] => []
      | es => .engine :: es }

end Sys2Proof.Machine
end

