-- ==== Sys2Proof/Machine/Step.lean ====
section
/-! DEFINITION. One step of the machine, and the placing of one command for the next step. -/

namespace Sys2Proof.Machine

/-- One step: next, fault or refusal. -/
def step (s : State) : Host.Outcome State Fault Refusal := s.advance

/-- `s` with the command whose bits are `w` in flight, so that the very next step runs it. The block fetches nothing
(R95): a command comes from the Host's write of CMD, for which this stands (log entry 5). -/
def State.withFetchWord (s : State) (nbits w : Nat) : State :=
  s.placeCommand (BitVec.ofNat 32 (w % 2 ^ nbits))

end Sys2Proof.Machine
end

