-- ==== Sys2Proof/Machine/HostProgram.lean ====
section
/-! DEFINITION. The host-program notation (30_encoding.md R119), the pseudo-instructions with their expansions (R120), and
the sequences that the spec gives host software (70_reset_and_hazards.md R384, R386; 46_protocol_commands.md R325).
Each primitive statement is one bus transaction; the host's own control flow is not, and the block sees only the
transactions. This is the Host's side of a run: nothing here is state of the block. -/

namespace Sys2Proof.Machine

/-- What a statement names: a register, or the window operand `W(a)` (R119). -/
inductive HostPlace where
  | reg (r : Register)
  | win (a : Nat)
  deriving DecidableEq, Repr

/-- The offset of a named place: `W(a)` is window offset 0x10000 + a (R119). -/
def HostPlace.offset : HostPlace → Nat
  | .reg r => r.offset
  | .win a => 0x10000 + a

/-- The offset of a named place as the block decodes it; none for a window operand `W(a)` with a ≥ 0x10000, whose offset
0x20000 or above the block does not decode (R80, 93_implementation_defined.md U6). That such an operand can be written and
stops the program is the model's choice (log entry 17). -/
def HostPlace.decodedOffset (p : HostPlace) : Option (BitVec 17) :=
  if p.offset < 0x20000 then some (BitVec.ofNat 17 p.offset) else none

/-- A condition on a value the host has read. R119 writes `<cond on t>` and lists no forms: that there are these four, a bit of
the value or its equality with a constant, is the model's choice (log entry 15). R120's `s[0] = 1` and `t ≠ v` are two of
them. -/
inductive HostCond where
  /-- `t[i] = 1` -/
  | bitSet (t i : Nat)
  /-- `t[i] = 0` -/
  | bitClear (t i : Nat)
  /-- `t = v` -/
  | eq (t : Nat) (v : Word)
  /-- `t ≠ v` -/
  | ne (t : Nat) (v : Word)
  deriving DecidableEq, Repr

/-- A statement of the notation (R119). The values a program names and its labels are numbered, and the numbers a statement
writes or names as addresses are constants of the program (log entry 15). -/
inductive HostStmt where
  /-- A label before the next statement. -/
  | label (l : Nat)
  /-- `WR`, `WRH` or `WRB`: a 32-, 16- or 8-bit write. -/
  | write (p : HostPlace) (size : Size) (v : Word)
  /-- `RD`, `RDH` or `RDB`: a read whose value the host names `t`. -/
  | read (p : HostPlace) (size : Size) (t : Nat)
  /-- `if <cond> goto label` -/
  | ifGoto (c : HostCond) (l : Nat)
  /-- `stop` -/
  | stop
  deriving DecidableEq, Repr

/-- The offset, size and direction of a primitive statement's one transaction with the block (R119); none for the host's
own control flow, and none where the named place is outside the block's window (log entry 17). -/
def HostStmt.transaction : HostStmt → Option Txn
  | .write p size v => p.decodedOffset.map fun off => ⟨off, size, .write v⟩
  | .read p size _ => p.decodedOffset.map fun off => ⟨off, size, .read⟩
  | .label _ | .ifGoto _ _ | .stop => none

/-- `WR r, v`. -/
def hostWr (r : Register) (v : Word) : HostStmt := .write (.reg r) .word v

/-- `RD r -> t`. -/
def hostRd (r : Register) (t : Nat) : HostStmt := .read (.reg r) .word t

/-! ### The pseudo-instructions (R120) -/

/-- `CMD m`. -/
def hostCmd (m : Instr) : List HostStmt := [hostWr .cmd (encode m)]

/-- `WAIT`, with its fresh label `w` and the name `t` of the STATUS value. -/
def hostWait (w t : Nat) : List HostStmt := [.label w, hostRd .status t, .ifGoto (.bitSet t 0) w]

/-- `RUN m`. -/
def hostRun (m : Instr) (w t : Nat) : List HostStmt := hostCmd m ++ hostWait w t

/-- `OPS s, l, d, p, g`: an operand written `-` emits no write. -/
def hostOps (s l d p g : Option Word) : List HostStmt :=
  (s.toList.map (hostWr .srcAddr)) ++ (l.toList.map (hostWr .srcLen)) ++ (d.toList.map (hostWr .dstAddr)) ++
    (p.toList.map (hostWr .pubAddr)) ++ (g.toList.map (hostWr .tagAddr))

/-- Whether `LOAD` and `DUMP` take a whole word at address `a` with `n` bytes left. -/
def wholeWordAt (a n : Nat) : Bool := a % 4 == 0 && decide (4 ≤ n)

/-- `LOAD a, <bytes>`: `fuel` bounds the statements, and the length of the string is enough. -/
def hostLoadFrom : Nat → Nat → List Byte → List HostStmt
  | 0, _, _ => []
  | _, _, [] => []
  | fuel + 1, a, b :: bs =>
    if wholeWordAt a (bs.length + 1) then
      .write (.win a) .word (BitVec.ofNat 32 (leNat ((b :: bs).take 4))) :: hostLoadFrom fuel (a + 4) (bs.drop 3)
    else .write (.win a) .byte (BitVec.ofNat 32 b.toNat) :: hostLoadFrom fuel (a + 1) bs

/-- `LOAD a, <bytes>`. -/
def hostLoad (a : Nat) (bs : List Byte) : List HostStmt := hostLoadFrom bs.length a bs

/-- The reads of `DUMP`, naming their values `t`, `t + 1`, and so on. -/
def hostDumpFrom : Nat → Nat → Nat → Nat → List HostStmt
  | 0, _, _, _ => []
  | _, _, 0, _ => []
  | fuel + 1, a, n + 1, t =>
    if wholeWordAt a (n + 1) then .read (.win a) .word t :: hostDumpFrom fuel (a + 4) (n - 3) (t + 1)
    else .read (.win a) .byte t :: hostDumpFrom fuel (a + 1) n (t + 1)

/-- `DUMP a, n -> t`. -/
def hostDump (a n t : Nat) : List HostStmt := hostDumpFrom n a n t

/-- `EXPECT r, v`, with the name `t` of the value and the label of the failure. -/
def hostExpect (r : Register) (v : Word) (t failLabel : Nat) : List HostStmt :=
  [hostRd r t, .ifGoto (.ne t v) failLabel]

/-! ### The host's sequences (70_reset_and_hazards.md R384, R386; 46_protocol_commands.md R325) -/

/-- The failure label of the sequences below. -/
def failLabel : Nat := 0

/-- `RUN m`, then the check of ERRCODE that R325 and R385 ask for after every `RUN`. -/
def hostRunChecked (m : Instr) (w : Nat) : List HostStmt := hostRun m w 0 ++ hostExpect .errCode 0 1 failLabel

/-- Boot, steps 2 to 5 of R384, with `ctrl` the deployment's value of CTRL: a deployment of 16-byte tags checks TAG16_SUP. -/
def hostBoot (ctrl : Word) : List HostStmt :=
  hostExpect .id 0x42494531 0 failLabel ++ hostExpect .version 0x00000001 1 failLabel ++ [hostRd .cap 2] ++
    (if ctrl.getLsbD 1 then [.ifGoto (.bitClear 2 8) failLabel] else []) ++
    [hostWr .ctrl ctrl, hostWr .status 0x00000302]

/-- The block's part of the encrypt flow (R325): the secret at `a`, the sender public key at `b`, the plaintext of `len` bytes
at `c`, the packet at `d`, OUT_LEN bytes of it. At the end the host overwrites the secret. -/
def hostEncryptFlow (secret pub : List Byte) (a b c len d : Word) : List HostStmt :=
  hostLoad a.toNat secret ++ hostOps (some a) (some 33) none none none ++ hostRunChecked (.kdf false) 1 ++
    hostLoad b.toNat pub ++ hostOps (some c) (some len) (some d) (some b) none ++ hostRunChecked .sealPkt 2 ++
    [hostRd .outLen 2] ++ hostLoad a.toNat (bytes secret.length 0x00)

/-- The bus side of the decrypt flow (R325): the packet at `a`, the secret at `b`, the plaintext at `d`, OUT_LEN bytes of it.
After PKT_DECODE the host reads the 33 bytes `BUF[a+4 .. a+37)` of step (2), naming their words from 3 up. The length written
to SRC_LEN is the packet's mod 2^32 (log entry 17). -/
def hostDecryptFlow (packet secret : List Byte) (a b d : Word) : List HostStmt :=
  let l := BitVec.ofNat 32 packet.length
  hostLoad a.toNat packet ++ hostOps (some a) (some l) none none none ++ hostRunChecked .pktDecode 1 ++
    [hostRd .outLen 2] ++ hostDump (a.toNat + 4) 33 3 ++
    hostLoad b.toNat secret ++ hostOps (some b) (some 33) none none none ++ hostRunChecked (.kdf false) 2 ++
    hostOps (some a) (some l) (some d) none none ++ hostRunChecked .openPkt 3 ++
    [hostRd .outLen 2]

/-- Authenticating before decrypting with the component commands (R386): the packet at `a` with a ciphertext of `n` bytes,
the plaintext at `d`. The values written to the 32-bit operand registers are the sums mod 2^32 (log entry 17). -/
def hostVerifyThenDecrypt (a n d : Word) : List HostStmt :=
  hostOps (some a) (some (37 + n)) none none (some (a + 37 + n)) ++ hostRunChecked .macVerify 1 ++
    hostOps (some (a + 37)) (some n) (some d) none none ++ hostRunChecked .aesDec 2

/-! ### The host's run of a program -/

/-- The host: which statement is next, and the values it has read, the newest first. -/
structure HostRun where
  next : Nat
  values : List (Nat × Word)
  deriving DecidableEq, Repr

/-- The value named `t`; 0 before it is read. -/
def HostRun.value (h : HostRun) (t : Nat) : Word := ((h.values.find? fun p => p.1 == t).map Prod.snd).getD 0

/-- Whether a condition holds. -/
def HostRun.holds (h : HostRun) : HostCond → Bool
  | .bitSet t i => (h.value t).getLsbD i
  | .bitClear t i => !(h.value t).getLsbD i
  | .eq t v => h.value t == v
  | .ne t v => h.value t != v

/-- One statement of the host against the block: a primitive statement is one transaction, whose read data the host
names; control flow touches no state of the block. None: the program has stopped. A place outside the block's window ends
the run in the fault of `step` there (R80, U6, log entries 6 and 17). -/
def hostStatement (prog : List HostStmt) (h : HostRun) (s : State) :
    Option (Host.Outcome (HostRun × State) Fault Refusal) :=
  match prog[h.next]? with
  | none => none
  | some stmt =>
    match stmt with
    | .stop => none
    | .label _ => some (.next (⟨h.next + 1, h.values⟩, s))
    | .ifGoto c l =>
      some (.next (if h.holds c then ⟨prog.findIdx (· == .label l), h.values⟩ else ⟨h.next + 1, h.values⟩, s))
    | .write p size v =>
      match p.decodedOffset with
      | none => some (.fault .addressNotDecoded)
      | some off => some (.next (⟨h.next + 1, h.values⟩, s.transact ⟨off, size, .write v⟩))
    | .read p size t =>
      match p.decodedOffset with
      | none => some (.fault .addressNotDecoded)
      | some off =>
        let r := s.hostStep ⟨off, size, .read⟩
        some (.next (⟨h.next + 1, (t, r.1.rdata.getD 0) :: h.values⟩, { r.2 with resp := some r.1 }))

/-- The bus event of a transaction: the host address is `P_BASE` plus the offset (R80, R88). -/
def State.eventOf (s : State) (t : Txn) : Event := .bus (s.pBase + t.off.toNat) t.size t.access

end Sys2Proof.Machine
end

