-- ==== Sys2Proof/Safety.lean ====
section
/-! DEFINITION. The terms the claims use: what a region holds, what a command stored, the invariant of the machine,
and when two states differ in their keys only. -/

namespace Sys2Proof.Machine

/-- The bytes `BUF[a..a+n)`, one read each (R8, R48). -/
def State.bytesAt (s : State) (a n : Nat) : List Byte := (List.range n).map fun i => s.buf.readByte (a + i)

/-- `t`'s buffer is `s`'s buffer with the string `v` at address `a`: every byte of the region holds its byte of `v`,
every other byte is unchanged. -/
def State.storedOver (s t : State) (a : Nat) (v : List Byte) : Prop :=
  ∀ x, t.buf.readByte x = if a ≤ x ∧ x < a + v.length then v.getD (x - a) 0 else s.buf.readByte x

/-- The region of n bytes at `a` lies in the buffer (R153). -/
abbrev State.fits (s : State) (a n : Nat) : Prop := a + n ≤ s.bufBytes

/-- The regions (a, m) and (b, n) overlap (R153). -/
abbrev meets (a m b n : Nat) : Prop := 0 < m ∧ 0 < n ∧ a < b + n ∧ b < a + m

/-- T: 16 with CTRL.TAG16 = 1, bit 1, else 32 (R38, R51). -/
def State.t (s : State) : Nat := if s.ctrl.getLsbD 1 then 16 else 32

/-- `s` with a command ended in the code `e` and `out` result bytes: the register updates of R151 and no other. -/
def State.endedWith (s : State) (e : ErrCode) (out : Nat) : State :=
  { s with errCode := e, outLen := BitVec.ofNat 32 out, busy := false, done := true }

/-- `s` after AUTOCLR: with CTRL.AUTOCLR = 1 the keys are zero and not valid, else they are as they were (R322). -/
def State.afterAutoclr (s : State) : State :=
  { s with
    keys := if s.ctrl.getLsbD 2 then List.replicate 64 0 else s.keys
    keyValid := if s.ctrl.getLsbD 2 then false else s.keyValid }

/-- The invariant of the machine:
- the buffer's list is canonical and lies in the buffer (R48);
- K is 64 bytes, all zero while key[VALID] = 0 (R46);
- while BUSY, DONE, ERRCODE and OUT_LEN are 0 (R90 item 3, R150);
- OUT_LEN is 0 after an error and never exceeds `P_BUF_BYTES` (R42, R118). -/
abbrev State.Inv (s : State) : Prop :=
  Memory.wf s.buf = true ∧ Memory.below s.bufBytes s.buf = true ∧
  s.keys.length = 64 ∧ (s.keyValid = false → s.keys = List.replicate 64 0) ∧
  (s.busy = true → s.done = false ∧ s.errCode = .ok ∧ s.outLen = 0) ∧
  (s.errCode ≠ .ok → s.outLen = 0) ∧ s.outLen.toNat ≤ s.bufBytes

/-- Two states that differ at most in the bytes of the key registers. -/
abbrev State.sameButKeys (s t : State) : Prop := { s with keys := [] } = { t with keys := [] }

/-- The responses of the block to transactions issued one after another. -/
def State.responses : State → List Txn → List Response
  | _, [] => []
  | s, t :: ts => (s.hostStep t).1 :: (s.transact t).responses ts

/-- The state after transactions issued one after another. -/
def State.afterTxns (s : State) (ts : List Txn) : State := ts.foldl State.transact s

/-- The codes a command can end with (R341). -/
def codesOf : Instr → List ErrCode
  | .nop | .keyclear => [.ok]
  | .kdf false => [.ok, .inputLen, .bounds]
  | .kdf true => [.ok, .inputLen, .bounds, .overlap]
  | .keyload => [.ok, .inputLen, .bounds]
  | .aesEnc => [.ok, .bounds, .overlap, .noKey]
  | .aesDec => [.ok, .bounds, .ctLength, .overlap, .noKey, .padding]
  | .macGen => [.ok, .bounds, .overlap, .noKey]
  | .macVerify => [.ok, .bounds, .noKey, .auth]
  | .pktEncode => [.ok, .bounds, .overlap]
  | .pktDecode => [.ok, .bounds, .malformedPacket, .ctLength]
  | .sealPkt => [.ok, .bounds, .overlap, .noKey]
  | .openPkt => [.ok, .bounds, .malformedPacket, .ctLength, .overlap, .noKey, .auth, .padding]

/-- The commands that read a key register (R45). -/
def readsKeys : Instr → Bool
  | .aesEnc | .aesDec | .macGen | .macVerify | .sealPkt | .openPkt => true
  | .nop | .kdf _ | .keyload | .keyclear | .pktEncode | .pktDecode => false

/-- The commands AUTOCLR applies to (R322). -/
def isProtocol : Instr → Bool
  | .sealPkt | .openPkt => true
  | .nop | .kdf _ | .keyload | .keyclear | .aesEnc | .aesDec | .macGen | .macVerify | .pktEncode | .pktDecode => false

/-- It is the Engine's turn, and `rest` is what is scheduled after it. -/
abbrev State.engineTurn (s : State) (rest : List Event) : Prop :=
  s.sched = .engine :: rest ∨ s.sched = [] ∧ rest = []

end Sys2Proof.Machine
end

