-- ==== Sys2Proof/Certificates/Slice0/Obligations.lean ====
section
/-! DEFINITION. The statements for the provers, each about every state of every build. -/

open Sys2Proof Sys2Proof.Machine

/-! ### Encoding and decoding (30_encoding.md) -/

/-- The decoder reads a command from a word exactly when the word is the command's encoding (R112): no word but the
thirteen of the opcode map is a command, and no bit of one is dropped. -/
def Obligations.DecodeEncodeAgree : Prop := ∀ (w : Word) (i : Instr), decode w = .ok i ↔ w = encode i

/-- The decoder accepts exactly the words that meet the four conditions of R113, read on the fields of R110. -/
def Obligations.LegalWordsAreDecoded : Prop :=
  ∀ w : Word, (∃ i, decode w = .ok i) ↔
    w.toNat / 2 ^ 16 = 0 ∧
    w.toNat % 2 ^ 8 ∈ [0x00, 0x01, 0x02, 0x03, 0x10, 0x11, 0x20, 0x21, 0x30, 0x31, 0x40, 0x41] ∧
    (w.toNat % 2 ^ 8 ≠ 0x01 → w.toNat / 2 ^ 8 % 2 ^ 8 = 0) ∧
    (w.toNat % 2 ^ 8 = 0x01 → w.toNat / 2 ^ 9 % 2 ^ 7 = 0)

/-- R113: a word is illegal when its OPCODE is not in the opcode map, its MOD has a bit set that OPCODE does not define, or
its RSVD is not 0. Written to CMD while IDLE it is accepted as any word is, and the Engine's turn then completes it with
ERR_ILLEGAL_CMD (0x01) and OUT_LEN = 0 and changes nothing else, whatever AUTOCLR says. -/
def Obligations.IllegalWordCompletesWithItsCode : Prop :=
  ∀ (s : State) (w : Word) (rest : List Event), s.busy = false →
    (w.toNat % 2 ^ 8 ∉ [0x00, 0x01, 0x02, 0x03, 0x10, 0x11, 0x20, 0x21, 0x30, 0x31, 0x40, 0x41] ∨
      (w.toNat % 2 ^ 8 ≠ 0x01 ∧ w.toNat / 2 ^ 8 % 2 ^ 8 ≠ 0) ∨
      (w.toNat % 2 ^ 8 = 0x01 ∧ w.toNat / 2 ^ 9 % 2 ^ 7 ≠ 0) ∨ w.toNat / 2 ^ 16 ≠ 0) →
    s.sched = .bus (s.pBase + 0x14) .word (.write w) :: .engine :: rest →
    ∃ u, step s = .next u ∧
      u = { s with
        cmd := w, busy := true, done := false, errCode := .ok, outLen := 0, sched := .engine :: rest
        resp := some ⟨.okay, none⟩ } ∧
      step u = .next { u with busy := false, done := true, errCode := .illegalCmd, sched := rest } ∧
      ErrCode.illegalCmd.code = 0x01

/-- The thirteen words of R112, and one illegal word for each condition of R113. -/
def Obligations.DecodedWords : Prop :=
  decode 0x00000000 = .ok .nop ∧ decode 0x00000001 = .ok (.kdf false) ∧ decode 0x00000101 = .ok (.kdf true) ∧
  decode 0x00000002 = .ok .keyload ∧ decode 0x00000003 = .ok .keyclear ∧ decode 0x00000010 = .ok .aesEnc ∧
  decode 0x00000011 = .ok .aesDec ∧ decode 0x00000020 = .ok .macGen ∧ decode 0x00000021 = .ok .macVerify ∧
  decode 0x00000030 = .ok .pktEncode ∧ decode 0x00000031 = .ok .pktDecode ∧ decode 0x00000040 = .ok .sealPkt ∧
  decode 0x00000041 = .ok .openPkt ∧ decode 0x00000004 = .error .unassignedOpcode ∧
  decode 0x00000100 = .error .modifier ∧ decode 0x00000201 = .error .modifier ∧
  decode 0x00010001 = .error .reservedBits

/-! ### The step (00_scope.md R12, 40_host_interface.md R150, R151) -/

/-- When a command is in flight, its word decodes to `i` and it is the Engine's turn, the step is `exec i` on the same
state with the turn taken off the schedule. -/
def Obligations.StepRunsDecodedCommand : Prop :=
  ∀ (s : State) (rest : List Event) (i : Instr), s.busy = true → s.engineTurn rest → decode s.cmd = .ok i →
    step s = exec i { s with sched := rest }

/-- A command placed for the next step is the command the next step runs, from the state its acceptance leaves. -/
def Obligations.PlacedCommandRuns : Prop :=
  ∀ (s : State) (i : Instr),
    step (s.withFetchWord 32 (encode i).toNat) =
      exec i { s with cmd := encode i, busy := true, done := false, errCode := .ok, outLen := 0 }

/-- A CMD write while IDLE followed by the Engine's turn runs the command written, from the state its acceptance leaves. -/
def Obligations.IssuedCommandRuns : Prop :=
  ∀ (s : State) (i : Instr) (rest : List Event), s.busy = false →
    s.sched = .bus (s.pBase + 0x14) .word (.write (encode i)) :: .engine :: rest →
    ∃ u, step s = .next u ∧
      step u = exec i { s with
        cmd := encode i, busy := true, done := false, errCode := .ok, outLen := 0, sched := rest
        resp := some ⟨.okay, none⟩ }

/-- The Engine has no step when no command is in flight: its turn changes nothing but the schedule. -/
def Obligations.EngineTurnWhileIdleChangesNothing : Prop :=
  ∀ (s : State) (rest : List Event), s.busy = false → s.engineTurn rest → step s = .next { s with sched := rest }

/-- The machine never hangs: it stops only on a transaction at an address outside its 128 KiB window, which it does not
decode (the stop is the model's reading of U6, log entry 6), and it does stop there. -/
def Obligations.MachineStopsOnlyOutsideItsWindow : Prop :=
  ∀ s : State,
    ((∃ t, step s = .next t) ↔
      ¬ ∃ addr size access rest, s.sched = .bus addr size access :: rest ∧
        (addr < 0x20000 * s.cfg.baseIndex ∨ 0x20000 * s.cfg.baseIndex + 0x20000 ≤ addr)) ∧
    ((¬ ∃ t, step s = .next t) → step s = .fault .addressNotDecoded)

/-- The Engine's turn completes any word in flight: BUSY drops, DONE rises, OUT_LEN is 0 after an error, and no register
but ERRCODE, OUT_LEN and the key registers changes. -/
def Obligations.EngineTurnCompletesAnyWord : Prop :=
  ∀ (s : State) (rest : List Event), s.busy = true → s.engineTurn rest →
    ∃ t, step s = .next t ∧ (t.errCode ≠ .ok → t.outLen = 0) ∧
      t = { s with
        busy := false, done := true, sched := rest, errCode := t.errCode, outLen := t.outLen, keys := t.keys
        keyValid := t.keyValid, buf := t.buf }

/-- A command ends with no code but those R341 lists for it, and the codes have the numbers of R341. -/
def Obligations.ErrorCodesByCommand : Prop :=
  (∀ (i : Instr) (s t : State), exec i s = .next t → t.errCode ∈ codesOf i) ∧
  ([.ok, .illegalCmd, .inputLen, .bounds, .overlap, .noKey, .malformedPacket, .ctLength, .auth, .padding].map
    ErrCode.code = [0x00, 0x01, 0x02, 0x03, 0x04, 0x05, 0x10, 0x11, 0x12, 0x13])

/-! ### Bus transactions (20_memory.md, 40_host_interface.md) -/

/-- R141: what a register read answers at every aligned offset of the register space, in both phases, and that it changes
nothing. -/
def Obligations.RegisterReads : Prop :=
  ∀ (s : State) (off : Nat), off < 0x10000 → off % 4 = 0 →
    s.hostStep ⟨BitVec.ofNat 17 off, .word, .read⟩ =
      (⟨.okay, some
        (if off = 0x000 then 0x42494531
        else if off = 0x004 then 0x00000001
        else if off = 0x008 then BitVec.ofNat 32 (2 ^ 8 + Nat.log2 s.bufBytes)
        else if off = 0x00C then BitVec.ofNat 32 s.ctrl.toNat
        else if off = 0x010 then BitVec.ofNat 32
          (s.cmdRej.toNat * 2 ^ 9 + s.accErr.toNat * 2 ^ 8 + s.keyValid.toNat * 2 ^ 3 +
            (decide (s.errCode.code ≠ 0)).toNat * 2 ^ 2 + s.done.toNat * 2 ^ 1 + s.busy.toNat)
        else if off = 0x014 then s.cmd
        else if off = 0x018 then BitVec.ofNat 32 s.errCode.code.toNat
        else if off = 0x01C then s.outLen
        else if off = 0x020 then s.srcAddr
        else if off = 0x024 then s.srcLen
        else if off = 0x028 then s.dstAddr
        else if off = 0x02C then s.pubAddr
        else if off = 0x030 then s.tagAddr
        else 0)⟩, s)

/-- R142 and R150: what a register write does at every aligned offset of the register space. Accepting a command drops
`irq`. -/
def Obligations.RegisterWrites : Prop :=
  (∀ (s : State) (off : Nat) (v : Word), off < 0x10000 → off % 4 = 0 →
    s.hostStep ⟨BitVec.ofNat 17 off, .word, .write v⟩ =
      (⟨.okay, none⟩,
        if off = 0x00C then
          (if s.busy then { s with accErr := true } else { s with ctrl := BitVec.ofNat 4 v.toNat })
        else if off = 0x010 then
          { s with
            done := if v.getLsbD 1 then false else s.done
            accErr := if v.getLsbD 8 then false else s.accErr
            cmdRej := if v.getLsbD 9 then false else s.cmdRej }
        else if off = 0x014 then
          (if s.busy then { s with cmdRej := true }
          else { s with cmd := v, busy := true, done := false, errCode := .ok, outLen := 0 })
        else if off = 0x020 then (if s.busy then { s with accErr := true } else { s with srcAddr := v })
        else if off = 0x024 then (if s.busy then { s with accErr := true } else { s with srcLen := v })
        else if off = 0x028 then (if s.busy then { s with accErr := true } else { s with dstAddr := v })
        else if off = 0x02C then (if s.busy then { s with accErr := true } else { s with pubAddr := v })
        else if off = 0x030 then (if s.busy then { s with accErr := true } else { s with tagAddr := v })
        else s)) ∧
  (∀ (s : State) (v : Word), s.busy = false → (s.hostStep ⟨0x14, .word, .write v⟩).2.irq = false)

/-- R84 and R85: a transaction answers SLVERR exactly when it is not an aligned 32-bit access of the register space or
a naturally aligned access of the window; it then changes nothing, and a read's data is 0. -/
def Obligations.BusErrorsChangeNothing : Prop :=
  ∀ (s : State) (t : Txn),
    ((s.hostStep t).1.code = .slverr ↔
      (t.off.toNat < 0x10000 ∧ (t.size ≠ .word ∨ t.off.toNat % 4 ≠ 0)) ∨
      (0x10000 ≤ t.off.toNat ∧
        ((t.size = .half ∧ t.off.toNat % 2 ≠ 0) ∨ (t.size = .word ∧ t.off.toNat % 4 ≠ 0)))) ∧
    ((s.hostStep t).1.code = .slverr →
      (s.hostStep t).2 = s ∧ (s.hostStep t).1.rdata = if t.access = .read then some 0 else none)

/-- R81: an aligned window transaction either reaches buffer bytes only, or reads as 0 and ignores writes with OKAY in
both phases; none lies across the end of the buffer. -/
def Obligations.WindowMapping : Prop :=
  ∀ (s : State) (t : Txn), 0x10000 ≤ t.off.toNat → t.off.toNat % t.size.toNat = 0 →
    (t.off.toNat - 0x10000 < s.bufBytes → t.off.toNat - 0x10000 + t.size.toNat ≤ s.bufBytes) ∧
    (s.bufBytes ≤ t.off.toNat - 0x10000 →
      s.hostStep t = (⟨.okay, if t.access = .read then some 0 else none⟩, s))

/-- R82: while IDLE, lane i of an aligned window transaction carries the byte at buffer address a + i; a read's data is 0
above the size and changes nothing; a write stores the lanes of its size and no other byte. -/
def Obligations.BufferLanes : Prop :=
  ∀ (s : State) (a : Nat) (size : Size), s.busy = false → Memory.wf s.buf = true →
    a + size.toNat ≤ s.bufBytes → a % size.toNat = 0 →
    (∃ v, s.hostStep ⟨BitVec.ofNat 17 (0x10000 + a), size, .read⟩ = (⟨.okay, some v⟩, s) ∧
      ∀ i, i < 4 → v.extractLsb' (8 * i) 8 = if i < size.toNat then s.buf.readByte (a + i) else 0) ∧
    (∀ w : Word, ∃ t, s.hostStep ⟨BitVec.ofNat 17 (0x10000 + a), size, .write w⟩ = (⟨.okay, none⟩, t) ∧
      t = { s with buf := t.buf } ∧
      s.storedOver t a ((List.range size.toNat).map fun i => w.extractLsb' (8 * i) 8))

/-- While BUSY, an aligned window transaction that reaches buffer bytes answers OKAY and sets ACCERR; a read's data is some
value, whatever the draw is, and a write is dropped. The count of draws is the model's own (log entry 4). -/
def Obligations.BusyBufferAccessIsRefused : Prop :=
  ∀ (s : State) (a : Nat) (size : Size), s.busy = true → a + size.toNat ≤ s.bufBytes → a % size.toNat = 0 →
    (∃ v, s.hostStep ⟨BitVec.ofNat 17 (0x10000 + a), size, .read⟩ =
      (⟨.okay, some v⟩, { s with accErr := true, draws := s.draws + 1 })) ∧
    (∀ w : Word, s.hostStep ⟨BitVec.ofNat 17 (0x10000 + a), size, .write w⟩ =
      (⟨.okay, none⟩, { s with accErr := true }))

/-- While BUSY no transaction changes anything but DONE, ACCERR, CMDREJ and the count of draws: CTRL, the operand
registers, the buffer, the keys and the command in flight stay. -/
def Obligations.BusyTransactionKeepsTheCommand : Prop :=
  ∀ (s : State) (t : Txn), s.busy = true →
    (s.hostStep t).2 = { s with
      done := (s.hostStep t).2.done, accErr := (s.hostStep t).2.accErr, cmdRej := (s.hostStep t).2.cmdRej
      draws := (s.hostStep t).2.draws }

/-- No host traffic can race a command: whatever transactions the Host issues while a command is in flight, the command
completes as it would have completed at once, but for ACCERR, CMDREJ, the last response and the count of draws. -/
def Obligations.HostTrafficCannotRaceACommand : Prop :=
  ∀ (s : State) (ts : List Txn), s.busy = true →
    ∃ t u, s.engineStep = .next t ∧ (s.afterTxns ts).engineStep = .next u ∧
      u = { t with
        accErr := (s.afterTxns ts).accErr, cmdRej := (s.afterTxns ts).cmdRej, resp := (s.afterTxns ts).resp
        draws := (s.afterTxns ts).draws }

/-- The key registers have no address: two states that differ in their keys only answer any sequence of transactions alike,
and no transaction changes a key. The responses compared include buffer reads while BUSY, which are draws under no law (R13,
R87): the equality is for the same draws in both runs, since in the model both share `Config.drawWord` of the count, and that
is the model's choice (log entry 4). -/
def Obligations.KeysHiddenFromTheBus : Prop :=
  ∀ (s u : State) (ts : List Txn), s.sameButKeys u →
    s.responses ts = u.responses ts ∧ (s.afterTxns ts).sameButKeys (u.afterTxns ts) ∧
      (s.afterTxns ts).keys = s.keys ∧ (u.afterTxns ts).keys = u.keys

/-- Executing the transactions of `LOAD a, <bytes>` while IDLE stores the bytes at `a` and changes nothing else of the
block (R120). -/
def Obligations.HostLoadStoresTheBytes : Prop :=
  ∀ (s : State) (a : Nat) (v : List Byte), s.busy = false → Memory.wf s.buf = true → s.fits a v.length →
    ∃ t, s.afterTxns ((hostLoad a v).filterMap HostStmt.transaction) = t ∧
      t = { s with buf := t.buf, resp := t.resp } ∧ s.storedOver t a v

/-! ### Completion, refusals and reset (60_exceptions.md, 70_reset_and_hazards.md) -/

/-- `irq` is CTRL.IE ∧ DONE: after any completion it is IE, whatever the error; acceptance and a write of 1 to STATUS
bit 1 drop it; ACCERR and CMDREJ raise none. -/
def Obligations.InterruptLine : Prop :=
  ∀ s : State,
    (s.irq = true ↔ s.ctrl.getLsbD 0 = true ∧ s.done = true) ∧
    (∀ i t, exec i s = .next t → t.irq = s.ctrl.getLsbD 0) ∧
    (∀ v, (s.accept v).irq = false) ∧
    (∀ v : Word, v.getLsbD 1 = true → (s.hostStep ⟨0x10, .word, .write v⟩).2.irq = false) ∧
    (∀ a c, ({ s with accErr := a, cmdRej := c } : State).irq = s.irq)

/-- Acknowledging a completion, in either phase: writing STATUS with bit 1 set and bits 8 and 9 clear clears DONE and
changes nothing else, so ERRCODE, OUT_LEN and IE keep their values. -/
def Obligations.AcknowledgeKeepsTheResult : Prop :=
  ∀ (s : State) (v : Word), v.getLsbD 1 = true → v.getLsbD 8 = false → v.getLsbD 9 = false →
    s.hostStep ⟨0x10, .word, .write v⟩ = (⟨.okay, none⟩, { s with done := false })

/-- ACCERR and CMDREJ are sticky: a step clears one of them only by a STATUS write of its bit or by reset. -/
def Obligations.RefusalFlagsAreSticky : Prop :=
  ∀ s t : State, step s = .next t →
    (s.accErr = true → t.accErr = true ∨
      (∃ v rest, s.sched = .bus (s.pBase + 0x10) .word (.write v) :: rest ∧ v.getLsbD 8 = true) ∨
      ∃ cells rest, s.sched = .reset cells :: rest) ∧
    (s.cmdRej = true → t.cmdRej = true ∨
      (∃ v rest, s.sched = .bus (s.pBase + 0x10) .word (.write v) :: rest ∧ v.getLsbD 9 = true) ∨
      ∃ cells rest, s.sched = .reset cells :: rest)

/-- R380: the state right after reset, and the state after a reset event in any state, even while BUSY, have the values of
the reset table; the buffer is a draw and nothing is said of it. -/
def Obligations.ResetValues : Prop :=
  ∀ t : State,
    (t = State.reset ∨ ∃ s cells rest, s.sched = .reset cells :: rest ∧ step s = .next t) →
    t.ctrl = 0b1100 ∧ t.busy = false ∧ t.done = false ∧ t.accErr = false ∧ t.cmdRej = false ∧ t.cmd = 0 ∧
    t.errCode.code = 0x00 ∧ t.outLen = 0 ∧ t.srcAddr = 0 ∧ t.srcLen = 0 ∧ t.dstAddr = 0 ∧ t.pubAddr = 0 ∧
    t.tagAddr = 0 ∧ t.keys = List.replicate 64 0 ∧ t.keyValid = false ∧ t.irq = false ∧
    t.readReg 0x00C = 0x0000000C ∧ t.readReg 0x010 = 0x00000000 ∧ t.readReg 0x000 = 0x42494531 ∧
    t.readReg 0x004 = 0x00000001 ∧ t.readReg 0x008 = BitVec.ofNat 32 (2 ^ 8 + Nat.log2 t.bufBytes)

/-- Each byte of the buffer is a draw at reset: from any state, any contents the buffer can hold can be the contents after
reset. -/
def Obligations.ResetCanDrawAnyBuffer : Prop :=
  ∀ (s : State) (m : Memory) (rest : List Event), m.wf = true → Memory.below s.bufBytes m = true →
    s.sched = .reset m :: rest → ∃ t, step s = .next t ∧ t.buf = m

/-- The state right after reset meets the invariant. -/
def Obligations.ResetMeetsTheInvariant : Prop := State.reset.Inv

/-- Every step keeps the invariant: the buffer's list is canonical and lies in the buffer; K is 64 bytes, zero while not
valid; while BUSY, DONE, ERRCODE and OUT_LEN are 0; OUT_LEN is 0 after an error and at most `P_BUF_BYTES`. -/
def Obligations.EveryStepKeepsTheInvariant : Prop := ∀ s t : State, s.Inv → step s = .next t → t.Inv

/-- The key registers change only by reset, or by the Engine completing a KDF, KEYLOAD or KEYCLEAR, or a SEAL or OPEN with
AUTOCLR = 1. -/
def Obligations.KeyRegisterWriters : Prop :=
  ∀ s t : State, step s = .next t → (t.keys ≠ s.keys ∨ t.keyValid ≠ s.keyValid) →
    (∃ cells rest, s.sched = .reset cells :: rest) ∨
    (s.busy = true ∧ (∃ rest, s.engineTurn rest) ∧ ∃ i, decode s.cmd = .ok i ∧
      (i = .kdf false ∨ i = .kdf true ∨ i = .keyload ∨ i = .keyclear ∨
        (isProtocol i = true ∧ s.ctrl.getLsbD 2 = true)))

/-- A command that reads a key register while key[VALID] = 0 does not compute: it ends in an error and leaves the buffer
as it was. -/
def Obligations.NoKeyNoResult : Prop :=
  ∀ (i : Instr) (s : State), readsKeys i = true → s.keyValid = false →
    ∃ t, exec i s = .next t ∧ t.errCode ≠ .ok ∧ t.buf = s.buf

/-- Checks 1 to 7 write nothing: a command that ends with one of their codes leaves the buffer as it was, and the keys too
but for AUTOCLR. -/
def Obligations.EarlyErrorsWriteNothing : Prop :=
  ∀ (i : Instr) (s t : State), exec i s = .next t →
    t.errCode ∈ [.inputLen, .bounds, .malformedPacket, .ctLength, .overlap, .noKey] →
    t.buf = s.buf ∧ (isProtocol i = false → t.keys = s.keys ∧ t.keyValid = s.keyValid)

/-! ### Primitives (41_crypto_primitives.md) -/

/-- R153: the two region predicates as the rule writes them; two regions overlap exactly when a byte lies in both. -/
def Obligations.RegionPredicates : Prop :=
  ∀ (s : State) (p q : Region),
    (s.inBounds p = true ↔ p.addr + p.len ≤ s.bufBytes) ∧
    (overlap p q = true ↔ p.len > 0 ∧ q.len > 0 ∧ p.addr < q.addr + q.len ∧ q.addr < p.addr + p.len) ∧
    (overlap p q = true ↔ ∃ x, p.addr ≤ x ∧ x < p.addr + p.len ∧ q.addr ≤ x ∧ x < q.addr + q.len)

/-- R181 and R187: the padded message is M, the byte 0x80, the least number of zeros that leaves room for the length field,
and the length in bits, big-endian; it is whole blocks. A 33-byte message makes one block of SHA-512. -/
def Obligations.HashPadding : Prop :=
  (∀ m : List Byte, ∃ k, shaPad 64 8 m = m ++ [0x80] ++ List.replicate k 0x00 ++ bytesBE 8 (8 * m.length) ∧
    (m.length + 1 + k) % 64 = 56 ∧ (∀ j, j < k → (m.length + 1 + j) % 64 ≠ 56) ∧ (shaPad 64 8 m).length % 64 = 0) ∧
  (∀ m : List Byte, ∃ k, shaPad 128 16 m = m ++ [0x80] ++ List.replicate k 0x00 ++ bytesBE 16 (8 * m.length) ∧
    (m.length + 1 + k) % 128 = 112 ∧ (∀ j, j < k → (m.length + 1 + j) % 128 ≠ 112) ∧
    (shaPad 128 16 m).length % 128 = 0 ∧ (m.length = 33 → k = 78 ∧ (shaPad 128 16 m).length = 128))

/-- R197: the S-box is the inverse in GF(2^8), with 0 mapped to 0, followed by the affine map; and R198: the inverse S-box
undoes it. -/
def Obligations.SboxIsInverseThenAffine : Prop :=
  (∀ x y : Byte, (gfMul x y = 0x01 ∨ x = 0 ∧ y = 0) →
    sbox x = y ^^^ y.rotateLeft 1 ^^^ y.rotateLeft 2 ^^^ y.rotateLeft 3 ^^^ y.rotateLeft 4 ^^^ 0x63) ∧
  (∀ x : Byte, invSbox (sbox x) = x)

/-- The inverse cipher undoes the forward cipher, for every key and every 16-byte block. -/
def Obligations.AesDecryptsWhatItEncrypts : Prop :=
  ∀ k b : List Byte, b.length = 16 → aesDecBlock k (aesEncBlock k b) = b

/-- CBC decryption undoes CBC encryption, for every key, every 16-byte IV and every string of whole blocks. -/
def Obligations.CbcDecryptsWhatItEncrypts : Prop :=
  ∀ k iv p : List Byte, iv.length = 16 → p.length % 16 = 0 → cbcDec k iv (cbcEnc k iv p) = p

/-- R208: padding appends p = 16 − (ℓ mod 16) bytes equal to p, and the check of R209 then finds p. -/
def Obligations.PaddingIsUnconditional : Prop :=
  ∀ m : List Byte,
    pkcs7Pad m = m ++ List.replicate (16 - m.length % 16) (BitVec.ofNat 8 (16 - m.length % 16)) ∧
    (pkcs7Pad m).length = 16 * (m.length / 16 + 1) ∧ pkcs7Check (pkcs7Pad m) = some (16 - m.length % 16)

/-- R209: on whole blocks, the padding check answers p exactly when p is 1 to 16 and the last p bytes are all p, and
`invalid` when there is no such p. -/
def Obligations.PaddingCheckIsExact : Prop :=
  ∀ d : List Byte, 0 < d.length → d.length % 16 = 0 →
    (∀ p, pkcs7Check d = some p ↔
      1 ≤ p ∧ p ≤ 16 ∧ ∀ j, j < p → d.getD (d.length - 1 - j) 0 = BitVec.ofNat 8 p) ∧
    (pkcs7Check d = none ↔
      ¬ ∃ p, 1 ≤ p ∧ p ≤ 16 ∧ ∀ j, j < p → d.getD (d.length - 1 - j) 0 = BitVec.ofNat 8 p)

/-- The constant-time comparison's value is equality, on strings of one length. -/
def Obligations.TagComparisonIsEquality : Prop :=
  ∀ a b : List Byte, a.length = b.length → (ctEq a b = true ↔ a = b)

/-- Two canonical buffers that read alike at every address are the same data. The canonical form is the model's choice
(log entry 3). -/
def Obligations.EqualContentsAreEqualData : Prop :=
  ∀ m n : Memory, m.wf = true → n.wf = true → (∀ a, m.readByte a = n.readByte a) → m = n

/-! ### The commands

Each rule is stated on every state whose buffer is canonical: the command answers a next state, the first failing check
decides (R154, R344), and when every check passes the state is the one the rule gives. The word of the command stands first. `endedWith` holds the completion
updates of R151; nothing the statement does not name changes, and `storedOver` speaks of every byte of the buffer. -/

/-- R240. -/
def Obligations.NopCompletes : Prop :=
  decode 0x00000000 = .ok .nop ∧ ∀ s : State, exec .nop s = .next (s.endedWith .ok 0)

/-- R241, for both values of X. -/
def Obligations.KdfDerivesTheKeys : Prop :=
  decode 0x00000001 = .ok (.kdf false) ∧ decode 0x00000101 = .ok (.kdf true) ∧
  ∀ (x : Bool) (s : State), Memory.wf s.buf = true →
    ∃ t, exec (.kdf x) s = .next t ∧
      if s.srcLen ≠ 33 then t = s.endedWith .inputLen 0
      else if ¬ s.fits s.srcAddr.toNat 33 then t = s.endedWith .bounds 0
      else if x = true ∧ ¬ s.fits s.dstAddr.toNat 64 then t = s.endedWith .bounds 0
      else if x = true ∧ meets s.dstAddr.toNat 64 s.srcAddr.toNat 33 then t = s.endedWith .overlap 0
      else
        t = { s.endedWith .ok (if x then 64 else 0) with
          keys := sha512 (s.bytesAt s.srcAddr.toNat 33), keyValid := true, buf := t.buf } ∧
        s.storedOver t s.dstAddr.toNat (if x then sha512 (s.bytesAt s.srcAddr.toNat 33) else [])

/-- R242. -/
def Obligations.KeyloadLoadsTheKeys : Prop :=
  decode 0x00000002 = .ok .keyload ∧
  ∀ s : State,
    exec .keyload s = .next
      (if s.srcLen ≠ 64 then s.endedWith .inputLen 0
      else if ¬ s.fits s.srcAddr.toNat 64 then s.endedWith .bounds 0
      else { s.endedWith .ok 0 with keys := s.bytesAt s.srcAddr.toNat 64, keyValid := true })

/-- R243. -/
def Obligations.KeyclearClearsTheKeys : Prop :=
  decode 0x00000003 = .ok .keyclear ∧
  ∀ s : State,
    exec .keyclear s = .next { s.endedWith .ok 0 with keys := List.replicate 64 0, keyValid := false }

/-- R260. -/
def Obligations.AesEncEncrypts : Prop :=
  decode 0x00000010 = .ok .aesEnc ∧
  ∀ s : State, Memory.wf s.buf = true →
    let l := s.srcLen.toNat
    let n := 16 * (l / 16 + 1)
    ∃ t, exec .aesEnc s = .next t ∧
      if ¬ s.fits s.srcAddr.toNat l then t = s.endedWith .bounds 0
      else if ¬ s.fits s.dstAddr.toNat n then t = s.endedWith .bounds 0
      else if meets s.dstAddr.toNat n s.srcAddr.toNat l then t = s.endedWith .overlap 0
      else if s.keyValid = false then t = s.endedWith .noKey 0
      else
        let c := cbcEnc (slice s.keys 16 32) (slice s.keys 0 16) (pkcs7Pad (s.bytesAt s.srcAddr.toNat l))
        c.length = n ∧ t = { s.endedWith .ok n with buf := t.buf } ∧ s.storedOver t s.dstAddr.toNat c

/-- R261. The bytes after the plaintext in the reserved region keep their values; bad padding zero-fills the region. -/
def Obligations.AesDecDecrypts : Prop :=
  decode 0x00000011 = .ok .aesDec ∧
  ∀ s : State, Memory.wf s.buf = true →
    let l := s.srcLen.toNat
    ∃ t, exec .aesDec s = .next t ∧
      if ¬ s.fits s.srcAddr.toNat l then t = s.endedWith .bounds 0
      else if l = 0 ∨ l % 16 ≠ 0 then t = s.endedWith .ctLength 0
      else if ¬ s.fits s.dstAddr.toNat l then t = s.endedWith .bounds 0
      else if meets s.dstAddr.toNat l s.srcAddr.toNat l then t = s.endedWith .overlap 0
      else if s.keyValid = false then t = s.endedWith .noKey 0
      else
        let d := cbcDec (slice s.keys 16 32) (slice s.keys 0 16) (s.bytesAt s.srcAddr.toNat l)
        match pkcs7Check d with
        | none =>
          t = { s.endedWith .padding 0 with buf := t.buf } ∧ s.storedOver t s.dstAddr.toNat (List.replicate l 0)
        | some p =>
          t = { s.endedWith .ok (l - p) with buf := t.buf } ∧ s.storedOver t s.dstAddr.toNat (d.take (l - p))

/-- R280. -/
def Obligations.MacGenWritesTheTag : Prop :=
  decode 0x00000020 = .ok .macGen ∧
  ∀ s : State, Memory.wf s.buf = true →
    let l := s.srcLen.toNat
    ∃ t, exec .macGen s = .next t ∧
      if ¬ s.fits s.srcAddr.toNat l then t = s.endedWith .bounds 0
      else if ¬ s.fits s.dstAddr.toNat s.t then t = s.endedWith .bounds 0
      else if meets s.dstAddr.toNat s.t s.srcAddr.toNat l then t = s.endedWith .overlap 0
      else if s.keyValid = false then t = s.endedWith .noKey 0
      else
        t = { s.endedWith .ok s.t with buf := t.buf } ∧
        s.storedOver t s.dstAddr.toNat
          ((hmac256 (slice s.keys 32 64) (s.bytesAt s.srcAddr.toNat l)).take s.t)

/-- R281. -/
def Obligations.MacVerifyComparesTheTag : Prop :=
  decode 0x00000021 = .ok .macVerify ∧
  ∀ s : State,
    let l := s.srcLen.toNat
    exec .macVerify s = .next
      (if ¬ s.fits s.srcAddr.toNat l then s.endedWith .bounds 0
      else if ¬ s.fits s.tagAddr.toNat s.t then s.endedWith .bounds 0
      else if s.keyValid = false then s.endedWith .noKey 0
      else if (hmac256 (slice s.keys 32 64) (s.bytesAt s.srcAddr.toNat l)).take s.t ≠
          s.bytesAt s.tagAddr.toNat s.t then s.endedWith .auth 0
      else s.endedWith .ok 0)

/-- R300. -/
def Obligations.PktEncodeWritesThePacket : Prop :=
  decode 0x00000030 = .ok .pktEncode ∧
  ∀ s : State, Memory.wf s.buf = true →
    let l := s.srcLen.toNat
    let m := 37 + l + s.t
    ∃ t, exec .pktEncode s = .next t ∧
      if ¬ s.fits s.srcAddr.toNat l then t = s.endedWith .bounds 0
      else if ¬ s.fits s.pubAddr.toNat 33 then t = s.endedWith .bounds 0
      else if ¬ s.fits s.tagAddr.toNat s.t then t = s.endedWith .bounds 0
      else if ¬ s.fits s.dstAddr.toNat m then t = s.endedWith .bounds 0
      else if meets s.dstAddr.toNat m s.srcAddr.toNat l ∨ meets s.dstAddr.toNat m s.pubAddr.toNat 33 ∨
          meets s.dstAddr.toNat m s.tagAddr.toNat s.t then t = s.endedWith .overlap 0
      else
        t = { s.endedWith .ok m with buf := t.buf } ∧
        s.storedOver t s.dstAddr.toNat
          ([0x42, 0x49, 0x45, 0x31] ++ s.bytesAt s.pubAddr.toNat 33 ++ s.bytesAt s.srcAddr.toNat l ++
            s.bytesAt s.tagAddr.toNat s.t)

/-- R301, with the checks of R302. -/
def Obligations.PktDecodeChecksThePacket : Prop :=
  decode 0x00000031 = .ok .pktDecode ∧
  ∀ s : State,
    let l := s.srcLen.toNat
    exec .pktDecode s = .next
      (if ¬ s.fits s.srcAddr.toNat l then s.endedWith .bounds 0
      else if l < 69 then s.endedWith .malformedPacket 0
      else if s.bytesAt s.srcAddr.toNat 4 ≠ [0x42, 0x49, 0x45, 0x31] then s.endedWith .malformedPacket 0
      else if (l : Int) - 37 - s.t ≤ 0 ∨ ((l : Int) - 37 - s.t) % 16 ≠ 0 then s.endedWith .ctLength 0
      else s.endedWith .ok (l - 37 - s.t))

/-- R320, with AUTOCLR after it (R322). -/
def Obligations.SealWritesThePacket : Prop :=
  decode 0x00000040 = .ok .sealPkt ∧
  ∀ s : State, Memory.wf s.buf = true →
    let l := s.srcLen.toNat
    let m := 37 + 16 * (l / 16 + 1) + s.t
    ∃ t, exec .sealPkt s = .next t ∧
      if ¬ s.fits s.srcAddr.toNat l then t = (s.endedWith .bounds 0).afterAutoclr
      else if ¬ s.fits s.pubAddr.toNat 33 then t = (s.endedWith .bounds 0).afterAutoclr
      else if ¬ s.fits s.dstAddr.toNat m then t = (s.endedWith .bounds 0).afterAutoclr
      else if meets s.dstAddr.toNat m s.srcAddr.toNat l ∨ meets s.dstAddr.toNat m s.pubAddr.toNat 33 then
        t = (s.endedWith .overlap 0).afterAutoclr
      else if s.keyValid = false then t = (s.endedWith .noKey 0).afterAutoclr
      else
        let c := cbcEnc (slice s.keys 16 32) (slice s.keys 0 16) (pkcs7Pad (s.bytesAt s.srcAddr.toNat l))
        let x := [0x42, 0x49, 0x45, 0x31] ++ s.bytesAt s.pubAddr.toNat 33 ++ c
        let packet := x ++ (hmac256 (slice s.keys 32 64) x).take s.t
        packet.length = m ∧ t = ({ s.endedWith .ok m with buf := t.buf } : State).afterAutoclr ∧
          s.storedOver t s.dstAddr.toNat packet

/-- R321, with AUTOCLR after it (R322): structure, then the tag, and only then the decryption. -/
def Obligations.OpenAuthenticatesThenDecrypts : Prop :=
  decode 0x00000041 = .ok .openPkt ∧
  ∀ s : State, Memory.wf s.buf = true →
    let a := s.srcAddr.toNat
    let l := s.srcLen.toNat
    let n := l - 37 - s.t
    ∃ t, exec .openPkt s = .next t ∧
      if ¬ s.fits a l then t = (s.endedWith .bounds 0).afterAutoclr
      else if l < 69 then t = (s.endedWith .malformedPacket 0).afterAutoclr
      else if s.bytesAt a 4 ≠ [0x42, 0x49, 0x45, 0x31] then t = (s.endedWith .malformedPacket 0).afterAutoclr
      else if (l : Int) - 37 - s.t ≤ 0 ∨ ((l : Int) - 37 - s.t) % 16 ≠ 0 then
        t = (s.endedWith .ctLength 0).afterAutoclr
      else if ¬ s.fits s.dstAddr.toNat n then t = (s.endedWith .bounds 0).afterAutoclr
      else if meets s.dstAddr.toNat n a l then t = (s.endedWith .overlap 0).afterAutoclr
      else if s.keyValid = false then t = (s.endedWith .noKey 0).afterAutoclr
      else if (hmac256 (slice s.keys 32 64) (s.bytesAt a (37 + n))).take s.t ≠ s.bytesAt (a + 37 + n) s.t then
        t = ({ s.endedWith .auth 0 with buf := t.buf } : State).afterAutoclr ∧
          s.storedOver t s.dstAddr.toNat (List.replicate n 0)
      else
        let d := cbcDec (slice s.keys 16 32) (slice s.keys 0 16) (s.bytesAt (a + 37) n)
        match pkcs7Check d with
        | none =>
          t = ({ s.endedWith (if s.ctrl.getLsbD 3 then .auth else .padding) 0 with buf := t.buf } : State).afterAutoclr ∧
            s.storedOver t s.dstAddr.toNat (List.replicate n 0)
        | some p =>
          t = ({ s.endedWith .ok (n - p) with buf := t.buf } : State).afterAutoclr ∧
            s.storedOver t s.dstAddr.toNat (d.take (n - p))

/-! ### Properties of the commands together -/

/-- R322: a SEAL or OPEN with AUTOCLR = 1 leaves the keys zero and not valid whatever its ERRCODE, with AUTOCLR = 0 it leaves
them as they were, and AUTOCLR makes no difference to any other command. -/
def Obligations.AutoclrAppliesToSealAndOpen : Prop :=
  ∀ (i : Instr) (s : State),
    ∃ t, exec i s = .next t ∧
      (isProtocol i = true →
        t.keys = (if s.ctrl.getLsbD 2 then List.replicate 64 0 else s.keys) ∧
        t.keyValid = (if s.ctrl.getLsbD 2 then false else s.keyValid)) ∧
      (isProtocol i = false →
        exec i { s with ctrl := s.ctrl ^^^ 0b0100 } = .next { t with ctrl := s.ctrl ^^^ 0b0100 })

/-- R323: no byte is written by an OPEN but zeros unless the tag has passed the comparison; an OPEN that ends in an error
leaves every byte as it was or, in its output region, zero; and one that fails at checks 3 to 7 writes nothing. -/
def Obligations.OpenFailsClosed : Prop :=
  ∀ s t : State, Memory.wf s.buf = true → exec .openPkt s = .next t →
    let a := s.srcAddr.toNat
    let n := s.srcLen.toNat - 37 - s.t
    (t.errCode ≠ .ok → ∀ x, t.buf.readByte x = s.buf.readByte x ∨
      (s.dstAddr.toNat ≤ x ∧ x < s.dstAddr.toNat + n ∧ t.buf.readByte x = 0)) ∧
    (t.errCode ∈ [.bounds, .malformedPacket, .ctLength, .overlap, .noKey] → t.buf = s.buf) ∧
    (t.errCode = .ok →
      (hmac256 (slice s.keys 32 64) (s.bytesAt a (37 + n))).take s.t = s.bytesAt (a + 37 + n) s.t)

/-- R324: UNIFY changes one thing, that an OPEN which would report ERR_PADDING reports ERR_AUTH; every other effect of OPEN
is the same, and AES_DEC is not affected. -/
def Obligations.UnifyHidesOnlyThePaddingCode : Prop :=
  ∀ s : State, s.ctrl.getLsbD 3 = true →
    (∃ t u, exec .openPkt s = .next t ∧ exec .openPkt { s with ctrl := s.ctrl &&& 0b0111 } = .next u ∧
      t = { u with ctrl := s.ctrl, errCode := if u.errCode = .padding then .auth else u.errCode }) ∧
    (∃ t, exec .aesDec s = .next t ∧
      exec .aesDec { s with ctrl := s.ctrl &&& 0b0111 } = .next { t with ctrl := s.ctrl &&& 0b0111 })

/-- A KEYLOAD of the 64 bytes that KDF with X = 1 exported gives the keys that the KDF gave. -/
def Obligations.ExportedKeysLoadBack : Prop :=
  ∀ s t : State, Memory.wf s.buf = true → exec (.kdf true) s = .next t → t.errCode = .ok →
    ∃ u, exec .keyload { t with srcAddr := s.dstAddr, srcLen := 64 } = .next u ∧
      u.errCode = .ok ∧ u.keys = t.keys ∧ u.keyValid = true ∧ u.buf = t.buf

/-- PKT_DECODE accepts the packet PKT_ENCODE wrote when its ciphertext is a positive number of blocks, and finds the
ciphertext's length; the four fields then stand at the slices of R301. -/
def Obligations.EncodedPacketDecodes : Prop :=
  ∀ s t : State, Memory.wf s.buf = true → exec .pktEncode s = .next t → t.errCode = .ok →
    s.srcLen ≠ 0 → s.srcLen.toNat % 16 = 0 →
    let l := s.srcLen.toNat
    let a := s.dstAddr.toNat
    (∃ u, exec .pktDecode { t with srcAddr := s.dstAddr, srcLen := t.outLen } = .next u ∧
      u.errCode = .ok ∧ u.outLen = s.srcLen ∧ u.buf = t.buf) ∧
    t.bytesAt a 4 = [0x42, 0x49, 0x45, 0x31] ∧ t.bytesAt (a + 4) 33 = s.bytesAt s.pubAddr.toNat 33 ∧
    t.bytesAt (a + 37) l = s.bytesAt s.srcAddr.toNat l ∧
    t.bytesAt (a + 37 + l) s.t = s.bytesAt s.tagAddr.toNat s.t

/-- Round trip: a SEAL that succeeds, then an OPEN of its packet with the same keys and the same T into a region of the
buffer apart from the packet, gives the plaintext back: ERRCODE 0, OUT_LEN = the plaintext's length, and its bytes at the
destination. -/
def Obligations.OpenReturnsWhatSealSealed : Prop :=
  ∀ (s t : State) (d : Word), Memory.wf s.buf = true → s.keys.length = 64 → exec .sealPkt s = .next t →
    t.errCode = .ok →
    s.fits d.toNat (16 * (s.srcLen.toNat / 16 + 1)) →
    ¬ meets d.toNat (16 * (s.srcLen.toNat / 16 + 1)) s.dstAddr.toNat t.outLen.toNat →
    ∃ u, exec .openPkt
        { t with srcAddr := s.dstAddr, srcLen := t.outLen, dstAddr := d, keys := s.keys, keyValid := true } = .next u ∧
      u.errCode = .ok ∧ u.outLen = s.srcLen ∧
      u.bytesAt d.toNat s.srcLen.toNat = s.bytesAt s.srcAddr.toNat s.srcLen.toNat

/-- Tamper detection on the tag: with any byte of the tag of a SEAL's packet changed and every other byte of the buffer as
the SEAL left it, an OPEN of the packet with the same keys and the same T ends in ERR_AUTH and writes no byte but zeros in
its output region. -/
def Obligations.TamperedTagIsRefused : Prop :=
  ∀ (s t : State) (m : Memory) (d : Word), Memory.wf s.buf = true → exec .sealPkt s = .next t → t.errCode = .ok →
    let n := 16 * (s.srcLen.toNat / 16 + 1)
    let a := s.dstAddr.toNat
    Memory.wf m = true → (∀ x, m.readByte x ≠ t.buf.readByte x → a + 37 + n ≤ x ∧ x < a + 37 + n + s.t) → m ≠ t.buf →
    s.fits d.toNat n → ¬ meets d.toNat n a t.outLen.toNat →
    ∃ u, exec .openPkt
        { t with
          srcAddr := s.dstAddr, srcLen := t.outLen, dstAddr := d, buf := m, keys := s.keys, keyValid := true } = .next u ∧
      u.errCode = .auth ∧ u.outLen = 0 ∧
      ∀ x, u.buf.readByte x = if d.toNat ≤ x ∧ x < d.toNat + n then 0 else m.readByte x
end

