-- ==== Sys2Proof/Laws/Bytes.lean ====
section
/-! SUPPORT. The lengths and the entries of byte strings. -/

namespace Sys2Proof.Machine

@[simp] theorem bytes_length (n : Nat) (v : Byte) : (bytes n v).length = n := by simp [bytes]

@[simp] theorem slice_length (b : List Byte) (i j : Nat) : (slice b i j).length = min (j - i) (b.length - i) := by
  simp [slice]

@[simp] theorem xorBytes_length (a b : List Byte) : (xorBytes a b).length = min a.length b.length := by
  simp [xorBytes]

@[simp] theorem bytesBE_length (n v : Nat) : (bytesBE n v).length = n := by
  induction n with
  | zero => rfl
  | succ n ih => simp [bytesBE, ih]

@[simp] theorem bytesLE_length (n v : Nat) : (bytesLE n v).length = n := by
  induction n generalizing v with
  | zero => rfl
  | succ n ih => simp [bytesLE, ih]

@[simp] theorem blocks_length (k n : Nat) (b : List Byte) : (blocks k n b).length = n := by
  induction n generalizing b with
  | zero => rfl
  | succ n ih => simp [blocks, ih]

/-- A string of n blocks of k bytes is the blocks put together again. -/
theorem blocks_flatten (k n : Nat) (b : List Byte) (h : b.length = k * n) : (blocks k n b).flatten = b := by
  induction n generalizing b with
  | zero => simpa [blocks] using (List.length_eq_zero_iff.mp (by simpa using h)).symm
  | succ n ih =>
    have : (b.drop k).length = k * n := by rw [List.length_drop, h, Nat.mul_succ]; omega
    simp [blocks, ih _ this, List.take_append_drop]

/-- Blocks cut from their own concatenation are themselves. -/
theorem blocks_of_flatten (k : Nat) (l : List (List Byte)) (h : ∀ b ∈ l, b.length = k) :
    blocks k l.length l.flatten = l := by
  induction l with
  | nil => rfl
  | cons b l ih =>
    have hb : b.length = k := h b (by simp)
    have ht := ih fun c hc => h c (by simp [hc])
    simp [blocks, ← hb] at ht ⊢
    exact ht

/-- The string between i and j of a string cut in two at i is the start of the second part. -/
theorem slice_append_right (a b : List Byte) (n : Nat) : slice (a ++ b) a.length (a.length + n) = b.take n := by
  simp [slice]

end Sys2Proof.Machine
end

