-- ==== Sys2Proof/Laws/State.lean ====
section
/-! SUPPORT. One lemma per field per update, so that no proof unfolds a record update. -/

namespace Sys2Proof.Machine

@[simp] theorem memWrite_cfg (s : State) (a : Nat) (v : List Byte) : (s.memWrite a v).cfg = s.cfg := rfl
@[simp] theorem memWrite_ctrl (s : State) (a : Nat) (v : List Byte) : (s.memWrite a v).ctrl = s.ctrl := rfl
@[simp] theorem memWrite_busy (s : State) (a : Nat) (v : List Byte) : (s.memWrite a v).busy = s.busy := rfl
@[simp] theorem memWrite_done (s : State) (a : Nat) (v : List Byte) : (s.memWrite a v).done = s.done := rfl
@[simp] theorem memWrite_accErr (s : State) (a : Nat) (v : List Byte) : (s.memWrite a v).accErr = s.accErr := rfl
@[simp] theorem memWrite_cmdRej (s : State) (a : Nat) (v : List Byte) : (s.memWrite a v).cmdRej = s.cmdRej := rfl
@[simp] theorem memWrite_cmd (s : State) (a : Nat) (v : List Byte) : (s.memWrite a v).cmd = s.cmd := rfl
@[simp] theorem memWrite_errCode (s : State) (a : Nat) (v : List Byte) : (s.memWrite a v).errCode = s.errCode := rfl
@[simp] theorem memWrite_outLen (s : State) (a : Nat) (v : List Byte) : (s.memWrite a v).outLen = s.outLen := rfl
@[simp] theorem memWrite_srcAddr (s : State) (a : Nat) (v : List Byte) : (s.memWrite a v).srcAddr = s.srcAddr := rfl
@[simp] theorem memWrite_srcLen (s : State) (a : Nat) (v : List Byte) : (s.memWrite a v).srcLen = s.srcLen := rfl
@[simp] theorem memWrite_dstAddr (s : State) (a : Nat) (v : List Byte) : (s.memWrite a v).dstAddr = s.dstAddr := rfl
@[simp] theorem memWrite_pubAddr (s : State) (a : Nat) (v : List Byte) : (s.memWrite a v).pubAddr = s.pubAddr := rfl
@[simp] theorem memWrite_tagAddr (s : State) (a : Nat) (v : List Byte) : (s.memWrite a v).tagAddr = s.tagAddr := rfl
@[simp] theorem memWrite_keys (s : State) (a : Nat) (v : List Byte) : (s.memWrite a v).keys = s.keys := rfl
@[simp] theorem memWrite_keyValid (s : State) (a : Nat) (v : List Byte) : (s.memWrite a v).keyValid = s.keyValid := rfl
@[simp] theorem memWrite_buf (s : State) (a : Nat) (v : List Byte) : (s.memWrite a v).buf = s.buf.write a v := rfl
@[simp] theorem memWrite_sched (s : State) (a : Nat) (v : List Byte) : (s.memWrite a v).sched = s.sched := rfl
@[simp] theorem memWrite_resp (s : State) (a : Nat) (v : List Byte) : (s.memWrite a v).resp = s.resp := rfl
@[simp] theorem memWrite_draws (s : State) (a : Nat) (v : List Byte) : (s.memWrite a v).draws = s.draws := rfl
@[simp] theorem memWrite_bufBytes (s : State) (a : Nat) (v : List Byte) : (s.memWrite a v).bufBytes = s.bufBytes := rfl
@[simp] theorem memWrite_tagLen (s : State) (a : Nat) (v : List Byte) : (s.memWrite a v).tagLen = s.tagLen := rfl
@[simp] theorem memWrite_autoclr (s : State) (a : Nat) (v : List Byte) : (s.memWrite a v).autoclr = s.autoclr := rfl

@[simp] theorem keyLoad_cfg (s : State) (k : List Byte) : (s.keyLoad k).cfg = s.cfg := rfl
@[simp] theorem keyLoad_ctrl (s : State) (k : List Byte) : (s.keyLoad k).ctrl = s.ctrl := rfl
@[simp] theorem keyLoad_busy (s : State) (k : List Byte) : (s.keyLoad k).busy = s.busy := rfl
@[simp] theorem keyLoad_done (s : State) (k : List Byte) : (s.keyLoad k).done = s.done := rfl
@[simp] theorem keyLoad_accErr (s : State) (k : List Byte) : (s.keyLoad k).accErr = s.accErr := rfl
@[simp] theorem keyLoad_cmdRej (s : State) (k : List Byte) : (s.keyLoad k).cmdRej = s.cmdRej := rfl
@[simp] theorem keyLoad_cmd (s : State) (k : List Byte) : (s.keyLoad k).cmd = s.cmd := rfl
@[simp] theorem keyLoad_errCode (s : State) (k : List Byte) : (s.keyLoad k).errCode = s.errCode := rfl
@[simp] theorem keyLoad_outLen (s : State) (k : List Byte) : (s.keyLoad k).outLen = s.outLen := rfl
@[simp] theorem keyLoad_srcAddr (s : State) (k : List Byte) : (s.keyLoad k).srcAddr = s.srcAddr := rfl
@[simp] theorem keyLoad_srcLen (s : State) (k : List Byte) : (s.keyLoad k).srcLen = s.srcLen := rfl
@[simp] theorem keyLoad_dstAddr (s : State) (k : List Byte) : (s.keyLoad k).dstAddr = s.dstAddr := rfl
@[simp] theorem keyLoad_pubAddr (s : State) (k : List Byte) : (s.keyLoad k).pubAddr = s.pubAddr := rfl
@[simp] theorem keyLoad_tagAddr (s : State) (k : List Byte) : (s.keyLoad k).tagAddr = s.tagAddr := rfl
@[simp] theorem keyLoad_keys (s : State) (k : List Byte) : (s.keyLoad k).keys = k := rfl
@[simp] theorem keyLoad_keyValid (s : State) (k : List Byte) : (s.keyLoad k).keyValid = true := rfl
@[simp] theorem keyLoad_buf (s : State) (k : List Byte) : (s.keyLoad k).buf = s.buf := rfl
@[simp] theorem keyLoad_sched (s : State) (k : List Byte) : (s.keyLoad k).sched = s.sched := rfl
@[simp] theorem keyLoad_resp (s : State) (k : List Byte) : (s.keyLoad k).resp = s.resp := rfl
@[simp] theorem keyLoad_draws (s : State) (k : List Byte) : (s.keyLoad k).draws = s.draws := rfl
@[simp] theorem keyLoad_bufBytes (s : State) (k : List Byte) : (s.keyLoad k).bufBytes = s.bufBytes := rfl
@[simp] theorem keyLoad_tagLen (s : State) (k : List Byte) : (s.keyLoad k).tagLen = s.tagLen := rfl
@[simp] theorem keyLoad_autoclr (s : State) (k : List Byte) : (s.keyLoad k).autoclr = s.autoclr := rfl

@[simp] theorem keyClear_cfg (s : State) : (s.keyClear).cfg = s.cfg := rfl
@[simp] theorem keyClear_ctrl (s : State) : (s.keyClear).ctrl = s.ctrl := rfl
@[simp] theorem keyClear_busy (s : State) : (s.keyClear).busy = s.busy := rfl
@[simp] theorem keyClear_done (s : State) : (s.keyClear).done = s.done := rfl
@[simp] theorem keyClear_accErr (s : State) : (s.keyClear).accErr = s.accErr := rfl
@[simp] theorem keyClear_cmdRej (s : State) : (s.keyClear).cmdRej = s.cmdRej := rfl
@[simp] theorem keyClear_cmd (s : State) : (s.keyClear).cmd = s.cmd := rfl
@[simp] theorem keyClear_errCode (s : State) : (s.keyClear).errCode = s.errCode := rfl
@[simp] theorem keyClear_outLen (s : State) : (s.keyClear).outLen = s.outLen := rfl
@[simp] theorem keyClear_srcAddr (s : State) : (s.keyClear).srcAddr = s.srcAddr := rfl
@[simp] theorem keyClear_srcLen (s : State) : (s.keyClear).srcLen = s.srcLen := rfl
@[simp] theorem keyClear_dstAddr (s : State) : (s.keyClear).dstAddr = s.dstAddr := rfl
@[simp] theorem keyClear_pubAddr (s : State) : (s.keyClear).pubAddr = s.pubAddr := rfl
@[simp] theorem keyClear_tagAddr (s : State) : (s.keyClear).tagAddr = s.tagAddr := rfl
@[simp] theorem keyClear_keys (s : State) : (s.keyClear).keys = bytes 64 0 := rfl
@[simp] theorem keyClear_keyValid (s : State) : (s.keyClear).keyValid = false := rfl
@[simp] theorem keyClear_buf (s : State) : (s.keyClear).buf = s.buf := rfl
@[simp] theorem keyClear_sched (s : State) : (s.keyClear).sched = s.sched := rfl
@[simp] theorem keyClear_resp (s : State) : (s.keyClear).resp = s.resp := rfl
@[simp] theorem keyClear_draws (s : State) : (s.keyClear).draws = s.draws := rfl
@[simp] theorem keyClear_bufBytes (s : State) : (s.keyClear).bufBytes = s.bufBytes := rfl
@[simp] theorem keyClear_tagLen (s : State) : (s.keyClear).tagLen = s.tagLen := rfl
@[simp] theorem keyClear_autoclr (s : State) : (s.keyClear).autoclr = s.autoclr := rfl

@[simp] theorem accept_cfg (s : State) (v : Word) : (s.accept v).cfg = s.cfg := rfl
@[simp] theorem accept_ctrl (s : State) (v : Word) : (s.accept v).ctrl = s.ctrl := rfl
@[simp] theorem accept_busy (s : State) (v : Word) : (s.accept v).busy = true := rfl
@[simp] theorem accept_done (s : State) (v : Word) : (s.accept v).done = false := rfl
@[simp] theorem accept_accErr (s : State) (v : Word) : (s.accept v).accErr = s.accErr := rfl
@[simp] theorem accept_cmdRej (s : State) (v : Word) : (s.accept v).cmdRej = s.cmdRej := rfl
@[simp] theorem accept_cmd (s : State) (v : Word) : (s.accept v).cmd = v := rfl
@[simp] theorem accept_errCode (s : State) (v : Word) : (s.accept v).errCode = .ok := rfl
@[simp] theorem accept_outLen (s : State) (v : Word) : (s.accept v).outLen = 0 := rfl
@[simp] theorem accept_srcAddr (s : State) (v : Word) : (s.accept v).srcAddr = s.srcAddr := rfl
@[simp] theorem accept_srcLen (s : State) (v : Word) : (s.accept v).srcLen = s.srcLen := rfl
@[simp] theorem accept_dstAddr (s : State) (v : Word) : (s.accept v).dstAddr = s.dstAddr := rfl
@[simp] theorem accept_pubAddr (s : State) (v : Word) : (s.accept v).pubAddr = s.pubAddr := rfl
@[simp] theorem accept_tagAddr (s : State) (v : Word) : (s.accept v).tagAddr = s.tagAddr := rfl
@[simp] theorem accept_keys (s : State) (v : Word) : (s.accept v).keys = s.keys := rfl
@[simp] theorem accept_keyValid (s : State) (v : Word) : (s.accept v).keyValid = s.keyValid := rfl
@[simp] theorem accept_buf (s : State) (v : Word) : (s.accept v).buf = s.buf := rfl
@[simp] theorem accept_sched (s : State) (v : Word) : (s.accept v).sched = s.sched := rfl
@[simp] theorem accept_resp (s : State) (v : Word) : (s.accept v).resp = s.resp := rfl
@[simp] theorem accept_draws (s : State) (v : Word) : (s.accept v).draws = s.draws := rfl
@[simp] theorem accept_bufBytes (s : State) (v : Word) : (s.accept v).bufBytes = s.bufBytes := rfl
@[simp] theorem accept_tagLen (s : State) (v : Word) : (s.accept v).tagLen = s.tagLen := rfl
@[simp] theorem accept_autoclr (s : State) (v : Word) : (s.accept v).autoclr = s.autoclr := rfl

@[simp] theorem finish_cfg (s : State) (e : ErrCode) (n : Nat) : (s.finish e n).cfg = s.cfg := rfl
@[simp] theorem finish_ctrl (s : State) (e : ErrCode) (n : Nat) : (s.finish e n).ctrl = s.ctrl := rfl
@[simp] theorem finish_busy (s : State) (e : ErrCode) (n : Nat) : (s.finish e n).busy = false := rfl
@[simp] theorem finish_done (s : State) (e : ErrCode) (n : Nat) : (s.finish e n).done = true := rfl
@[simp] theorem finish_accErr (s : State) (e : ErrCode) (n : Nat) : (s.finish e n).accErr = s.accErr := rfl
@[simp] theorem finish_cmdRej (s : State) (e : ErrCode) (n : Nat) : (s.finish e n).cmdRej = s.cmdRej := rfl
@[simp] theorem finish_cmd (s : State) (e : ErrCode) (n : Nat) : (s.finish e n).cmd = s.cmd := rfl
@[simp] theorem finish_errCode (s : State) (e : ErrCode) (n : Nat) : (s.finish e n).errCode = e := rfl
@[simp] theorem finish_outLen (s : State) (e : ErrCode) (n : Nat) : (s.finish e n).outLen = (if e = .ok then BitVec.ofNat 32 n else 0) := rfl
@[simp] theorem finish_srcAddr (s : State) (e : ErrCode) (n : Nat) : (s.finish e n).srcAddr = s.srcAddr := rfl
@[simp] theorem finish_srcLen (s : State) (e : ErrCode) (n : Nat) : (s.finish e n).srcLen = s.srcLen := rfl
@[simp] theorem finish_dstAddr (s : State) (e : ErrCode) (n : Nat) : (s.finish e n).dstAddr = s.dstAddr := rfl
@[simp] theorem finish_pubAddr (s : State) (e : ErrCode) (n : Nat) : (s.finish e n).pubAddr = s.pubAddr := rfl
@[simp] theorem finish_tagAddr (s : State) (e : ErrCode) (n : Nat) : (s.finish e n).tagAddr = s.tagAddr := rfl
@[simp] theorem finish_keys (s : State) (e : ErrCode) (n : Nat) : (s.finish e n).keys = s.keys := rfl
@[simp] theorem finish_keyValid (s : State) (e : ErrCode) (n : Nat) : (s.finish e n).keyValid = s.keyValid := rfl
@[simp] theorem finish_buf (s : State) (e : ErrCode) (n : Nat) : (s.finish e n).buf = s.buf := rfl
@[simp] theorem finish_sched (s : State) (e : ErrCode) (n : Nat) : (s.finish e n).sched = s.sched := rfl
@[simp] theorem finish_resp (s : State) (e : ErrCode) (n : Nat) : (s.finish e n).resp = s.resp := rfl
@[simp] theorem finish_draws (s : State) (e : ErrCode) (n : Nat) : (s.finish e n).draws = s.draws := rfl
@[simp] theorem finish_bufBytes (s : State) (e : ErrCode) (n : Nat) : (s.finish e n).bufBytes = s.bufBytes := rfl
@[simp] theorem finish_tagLen (s : State) (e : ErrCode) (n : Nat) : (s.finish e n).tagLen = s.tagLen := rfl
@[simp] theorem finish_autoclr (s : State) (e : ErrCode) (n : Nat) : (s.finish e n).autoclr = s.autoclr := rfl

@[simp] theorem complete_cfg (s : State) (n : Nat) : (s.complete n).cfg = s.cfg := rfl
@[simp] theorem complete_ctrl (s : State) (n : Nat) : (s.complete n).ctrl = s.ctrl := rfl
@[simp] theorem complete_busy (s : State) (n : Nat) : (s.complete n).busy = false := rfl
@[simp] theorem complete_done (s : State) (n : Nat) : (s.complete n).done = true := rfl
@[simp] theorem complete_accErr (s : State) (n : Nat) : (s.complete n).accErr = s.accErr := rfl
@[simp] theorem complete_cmdRej (s : State) (n : Nat) : (s.complete n).cmdRej = s.cmdRej := rfl
@[simp] theorem complete_cmd (s : State) (n : Nat) : (s.complete n).cmd = s.cmd := rfl
@[simp] theorem complete_errCode (s : State) (n : Nat) : (s.complete n).errCode = .ok := rfl
@[simp] theorem complete_outLen (s : State) (n : Nat) : (s.complete n).outLen = BitVec.ofNat 32 n := rfl
@[simp] theorem complete_srcAddr (s : State) (n : Nat) : (s.complete n).srcAddr = s.srcAddr := rfl
@[simp] theorem complete_srcLen (s : State) (n : Nat) : (s.complete n).srcLen = s.srcLen := rfl
@[simp] theorem complete_dstAddr (s : State) (n : Nat) : (s.complete n).dstAddr = s.dstAddr := rfl
@[simp] theorem complete_pubAddr (s : State) (n : Nat) : (s.complete n).pubAddr = s.pubAddr := rfl
@[simp] theorem complete_tagAddr (s : State) (n : Nat) : (s.complete n).tagAddr = s.tagAddr := rfl
@[simp] theorem complete_keys (s : State) (n : Nat) : (s.complete n).keys = s.keys := rfl
@[simp] theorem complete_keyValid (s : State) (n : Nat) : (s.complete n).keyValid = s.keyValid := rfl
@[simp] theorem complete_buf (s : State) (n : Nat) : (s.complete n).buf = s.buf := rfl
@[simp] theorem complete_sched (s : State) (n : Nat) : (s.complete n).sched = s.sched := rfl
@[simp] theorem complete_resp (s : State) (n : Nat) : (s.complete n).resp = s.resp := rfl
@[simp] theorem complete_draws (s : State) (n : Nat) : (s.complete n).draws = s.draws := rfl
@[simp] theorem complete_bufBytes (s : State) (n : Nat) : (s.complete n).bufBytes = s.bufBytes := rfl
@[simp] theorem complete_tagLen (s : State) (n : Nat) : (s.complete n).tagLen = s.tagLen := rfl
@[simp] theorem complete_autoclr (s : State) (n : Nat) : (s.complete n).autoclr = s.autoclr := rfl

@[simp] theorem acknowledge_cfg (s : State) : (s.acknowledge).cfg = s.cfg := rfl
@[simp] theorem acknowledge_ctrl (s : State) : (s.acknowledge).ctrl = s.ctrl := rfl
@[simp] theorem acknowledge_busy (s : State) : (s.acknowledge).busy = s.busy := rfl
@[simp] theorem acknowledge_done (s : State) : (s.acknowledge).done = false := rfl
@[simp] theorem acknowledge_accErr (s : State) : (s.acknowledge).accErr = s.accErr := rfl
@[simp] theorem acknowledge_cmdRej (s : State) : (s.acknowledge).cmdRej = s.cmdRej := rfl
@[simp] theorem acknowledge_cmd (s : State) : (s.acknowledge).cmd = s.cmd := rfl
@[simp] theorem acknowledge_errCode (s : State) : (s.acknowledge).errCode = s.errCode := rfl
@[simp] theorem acknowledge_outLen (s : State) : (s.acknowledge).outLen = s.outLen := rfl
@[simp] theorem acknowledge_srcAddr (s : State) : (s.acknowledge).srcAddr = s.srcAddr := rfl
@[simp] theorem acknowledge_srcLen (s : State) : (s.acknowledge).srcLen = s.srcLen := rfl
@[simp] theorem acknowledge_dstAddr (s : State) : (s.acknowledge).dstAddr = s.dstAddr := rfl
@[simp] theorem acknowledge_pubAddr (s : State) : (s.acknowledge).pubAddr = s.pubAddr := rfl
@[simp] theorem acknowledge_tagAddr (s : State) : (s.acknowledge).tagAddr = s.tagAddr := rfl
@[simp] theorem acknowledge_keys (s : State) : (s.acknowledge).keys = s.keys := rfl
@[simp] theorem acknowledge_keyValid (s : State) : (s.acknowledge).keyValid = s.keyValid := rfl
@[simp] theorem acknowledge_buf (s : State) : (s.acknowledge).buf = s.buf := rfl
@[simp] theorem acknowledge_sched (s : State) : (s.acknowledge).sched = s.sched := rfl
@[simp] theorem acknowledge_resp (s : State) : (s.acknowledge).resp = s.resp := rfl
@[simp] theorem acknowledge_draws (s : State) : (s.acknowledge).draws = s.draws := rfl
@[simp] theorem acknowledge_bufBytes (s : State) : (s.acknowledge).bufBytes = s.bufBytes := rfl
@[simp] theorem acknowledge_tagLen (s : State) : (s.acknowledge).tagLen = s.tagLen := rfl
@[simp] theorem acknowledge_autoclr (s : State) : (s.acknowledge).autoclr = s.autoclr := rfl

@[simp] theorem raiseErr_cfg (s : State) (e : ErrCode) : (s.raiseErr e).cfg = s.cfg := rfl
@[simp] theorem raiseErr_ctrl (s : State) (e : ErrCode) : (s.raiseErr e).ctrl = s.ctrl := rfl
@[simp] theorem raiseErr_busy (s : State) (e : ErrCode) : (s.raiseErr e).busy = false := rfl
@[simp] theorem raiseErr_done (s : State) (e : ErrCode) : (s.raiseErr e).done = true := rfl
@[simp] theorem raiseErr_accErr (s : State) (e : ErrCode) : (s.raiseErr e).accErr = s.accErr := rfl
@[simp] theorem raiseErr_cmdRej (s : State) (e : ErrCode) : (s.raiseErr e).cmdRej = s.cmdRej := rfl
@[simp] theorem raiseErr_cmd (s : State) (e : ErrCode) : (s.raiseErr e).cmd = s.cmd := rfl
@[simp] theorem raiseErr_errCode (s : State) (e : ErrCode) : (s.raiseErr e).errCode = e := rfl
@[simp] theorem raiseErr_outLen (s : State) (e : ErrCode) : (s.raiseErr e).outLen = 0 := by simp [State.raiseErr]
@[simp] theorem raiseErr_srcAddr (s : State) (e : ErrCode) : (s.raiseErr e).srcAddr = s.srcAddr := rfl
@[simp] theorem raiseErr_srcLen (s : State) (e : ErrCode) : (s.raiseErr e).srcLen = s.srcLen := rfl
@[simp] theorem raiseErr_dstAddr (s : State) (e : ErrCode) : (s.raiseErr e).dstAddr = s.dstAddr := rfl
@[simp] theorem raiseErr_pubAddr (s : State) (e : ErrCode) : (s.raiseErr e).pubAddr = s.pubAddr := rfl
@[simp] theorem raiseErr_tagAddr (s : State) (e : ErrCode) : (s.raiseErr e).tagAddr = s.tagAddr := rfl
@[simp] theorem raiseErr_keys (s : State) (e : ErrCode) : (s.raiseErr e).keys = s.keys := rfl
@[simp] theorem raiseErr_keyValid (s : State) (e : ErrCode) : (s.raiseErr e).keyValid = s.keyValid := rfl
@[simp] theorem raiseErr_buf (s : State) (e : ErrCode) : (s.raiseErr e).buf = s.buf := rfl
@[simp] theorem raiseErr_sched (s : State) (e : ErrCode) : (s.raiseErr e).sched = s.sched := rfl
@[simp] theorem raiseErr_resp (s : State) (e : ErrCode) : (s.raiseErr e).resp = s.resp := rfl
@[simp] theorem raiseErr_draws (s : State) (e : ErrCode) : (s.raiseErr e).draws = s.draws := rfl
@[simp] theorem raiseErr_bufBytes (s : State) (e : ErrCode) : (s.raiseErr e).bufBytes = s.bufBytes := rfl
@[simp] theorem raiseErr_tagLen (s : State) (e : ErrCode) : (s.raiseErr e).tagLen = s.tagLen := rfl
@[simp] theorem raiseErr_autoclr (s : State) (e : ErrCode) : (s.raiseErr e).autoclr = s.autoclr := rfl

@[simp] theorem autoClear_cfg (s : State) : s.autoClear.cfg = s.cfg := by
  unfold State.autoClear; split <;> rfl
@[simp] theorem autoClear_ctrl (s : State) : s.autoClear.ctrl = s.ctrl := by
  unfold State.autoClear; split <;> rfl
@[simp] theorem autoClear_busy (s : State) : s.autoClear.busy = s.busy := by
  unfold State.autoClear; split <;> rfl
@[simp] theorem autoClear_done (s : State) : s.autoClear.done = s.done := by
  unfold State.autoClear; split <;> rfl
@[simp] theorem autoClear_accErr (s : State) : s.autoClear.accErr = s.accErr := by
  unfold State.autoClear; split <;> rfl
@[simp] theorem autoClear_cmdRej (s : State) : s.autoClear.cmdRej = s.cmdRej := by
  unfold State.autoClear; split <;> rfl
@[simp] theorem autoClear_cmd (s : State) : s.autoClear.cmd = s.cmd := by
  unfold State.autoClear; split <;> rfl
@[simp] theorem autoClear_errCode (s : State) : s.autoClear.errCode = s.errCode := by
  unfold State.autoClear; split <;> rfl
@[simp] theorem autoClear_outLen (s : State) : s.autoClear.outLen = s.outLen := by
  unfold State.autoClear; split <;> rfl
@[simp] theorem autoClear_srcAddr (s : State) : s.autoClear.srcAddr = s.srcAddr := by
  unfold State.autoClear; split <;> rfl
@[simp] theorem autoClear_srcLen (s : State) : s.autoClear.srcLen = s.srcLen := by
  unfold State.autoClear; split <;> rfl
@[simp] theorem autoClear_dstAddr (s : State) : s.autoClear.dstAddr = s.dstAddr := by
  unfold State.autoClear; split <;> rfl
@[simp] theorem autoClear_pubAddr (s : State) : s.autoClear.pubAddr = s.pubAddr := by
  unfold State.autoClear; split <;> rfl
@[simp] theorem autoClear_tagAddr (s : State) : s.autoClear.tagAddr = s.tagAddr := by
  unfold State.autoClear; split <;> rfl
@[simp] theorem autoClear_keys (s : State) : s.autoClear.keys = if s.autoclr then bytes 64 0 else s.keys := by
  unfold State.autoClear; split <;> rfl
@[simp] theorem autoClear_keyValid (s : State) : s.autoClear.keyValid = if s.autoclr then false else s.keyValid := by
  unfold State.autoClear; split <;> rfl
@[simp] theorem autoClear_buf (s : State) : s.autoClear.buf = s.buf := by
  unfold State.autoClear; split <;> rfl
@[simp] theorem autoClear_sched (s : State) : s.autoClear.sched = s.sched := by
  unfold State.autoClear; split <;> rfl
@[simp] theorem autoClear_resp (s : State) : s.autoClear.resp = s.resp := by
  unfold State.autoClear; split <;> rfl
@[simp] theorem autoClear_draws (s : State) : s.autoClear.draws = s.draws := by
  unfold State.autoClear; split <;> rfl
@[simp] theorem autoClear_bufBytes (s : State) : s.autoClear.bufBytes = s.bufBytes := by
  unfold State.autoClear; split <;> rfl
@[simp] theorem autoClear_tagLen (s : State) : s.autoClear.tagLen = s.tagLen := by
  unfold State.autoClear; split <;> rfl
@[simp] theorem autoClear_autoclr (s : State) : s.autoClear.autoclr = s.autoclr := by
  unfold State.autoClear; split <;> rfl

end Sys2Proof.Machine
end

