-- ==== Sys2Proof/Laws/Checks.lean ====
section
/-! SUPPORT. What each check says, and what the first failing check decides. -/

namespace Sys2Proof.Machine

/-- No check fails exactly when every check passes. -/
theorem firstFail_eq_none {cs : List Check} : firstFail cs = none ↔ ∀ c ∈ cs, c.1 = false := by
  induction cs with
  | nil => simp [firstFail]
  | cons c cs ih =>
    obtain ⟨f, e⟩ := c
    cases f <;> simp [firstFail, ih]

/-- A failing list raises the code of a check in it that fails, all checks before it passing. -/
theorem firstFail_eq_some {cs : List Check} {e : ErrCode} (h : firstFail cs = some e) :
    ∃ before after, cs = before ++ (true, e) :: after ∧ ∀ c ∈ before, c.1 = false := by
  induction cs with
  | nil => cases h
  | cons c cs ih =>
    obtain ⟨f, e'⟩ := c
    cases f with
    | true => exact ⟨[], cs, by simpa [firstFail] using h, by simp⟩
    | false =>
      obtain ⟨b, a, rfl, hb⟩ := ih (by simpa [firstFail] using h)
      exact ⟨(false, e') :: b, a, rfl, by simpa using hb⟩

/-- The code raised is the code of one of the checks. -/
theorem firstFail_mem {cs : List Check} {e : ErrCode} (h : firstFail cs = some e) : (true, e) ∈ cs := by
  obtain ⟨b, a, rfl, -⟩ := firstFail_eq_some h
  simp

@[simp] theorem within_passes (s : State) (r : Region) :
    (s.within r).1 = false ↔ r.addr + r.len ≤ s.bufBytes := by simp [State.within, State.inBounds]

@[simp] theorem within_code (s : State) (r : Region) : (s.within r).2 = .bounds := rfl

@[simp] theorem apart_passes (p q : Region) :
    (apart p q).1 = false ↔ (0 < p.len → 0 < q.len → p.addr < q.addr + q.len → p.addr + p.len ≤ q.addr) := by
  simp [apart, overlap]

@[simp] theorem apart_code (p q : Region) : (apart p q).2 = .overlap := rfl

@[simp] theorem hasKey_passes (s : State) : s.hasKey.1 = false ↔ s.keyValid = true := by simp [State.hasKey]

@[simp] theorem hasKey_code (s : State) : s.hasKey.2 = .noKey := rfl

@[simp] theorem lengthIs_passes (s : State) (n : Nat) : (s.lengthIs n).1 = false ↔ s.len = n := by
  simp [State.lengthIs]

@[simp] theorem lengthIs_code (s : State) (n : Nat) : (s.lengthIs n).2 = .inputLen := rfl

@[simp] theorem wholeBlocks_passes (s : State) : s.wholeBlocks.1 = false ↔ s.len ≠ 0 ∧ s.len % 16 = 0 := by
  simp [State.wholeBlocks]

@[simp] theorem wholeBlocks_code (s : State) : s.wholeBlocks.2 = .ctLength := rfl

/-- `T` is 16 or 32. -/
theorem tagLen_cases (s : State) : s.tagLen = 16 ∨ s.tagLen = 32 := by
  unfold State.tagLen; split <;> simp

/-- The structure checks pass exactly on a packet of at least 69 bytes that begins with FLAG and holds a positive number
of ciphertext blocks. -/
theorem decodeChecks_pass (s : State) (r : Region) (t : Nat) :
    (∀ c ∈ s.decodeChecks r t, c.1 = false) ↔
      69 ≤ r.len ∧ s.memRead r.addr 4 = flagBytes ∧ headerLen + t < r.len ∧ packetCtLen r.len t % 16 = 0 := by
  simp [State.decodeChecks]

/-! ### A list of checks as nested conditions, each on the operands -/

/-- A check decides first; the rest decide when it passes. -/
theorem firstFail_cons {c : Check} {cs : List Check} {P : Prop} [Decidable P] (h : c.1 = true ↔ P) :
    firstFail (c :: cs) = if P then some c.2 else firstFail cs := by
  obtain ⟨b, e⟩ := c
  by_cases hp : P
  · simp [firstFail, show b = true from h.2 hp, hp]
  · simp [firstFail, show b = false by simpa [hp] using h, hp]

theorem firstFail_within (s : State) (r : Region) (cs : List Check) :
    firstFail (s.within r :: cs) = if ¬ r.addr + r.len ≤ s.bufBytes then some .bounds else firstFail cs :=
  firstFail_cons (by simp [State.within, State.inBounds])

theorem firstFail_apart (p q : Region) (cs : List Check) :
    firstFail (apart p q :: cs) =
      if 0 < p.len ∧ 0 < q.len ∧ p.addr < q.addr + q.len ∧ q.addr < p.addr + p.len then some .overlap
      else firstFail cs :=
  firstFail_cons (by simp [apart, overlap, and_assoc])

theorem firstFail_hasKey (s : State) (cs : List Check) :
    firstFail (s.hasKey :: cs) = if s.keyValid = false then some .noKey else firstFail cs :=
  firstFail_cons (by simp [State.hasKey])

theorem firstFail_lengthIs (s : State) (n : Nat) (cs : List Check) :
    firstFail (s.lengthIs n :: cs) = if s.srcLen.toNat ≠ n then some .inputLen else firstFail cs :=
  firstFail_cons (by simp [State.lengthIs, State.len])

theorem firstFail_wholeBlocks (s : State) (cs : List Check) :
    firstFail (s.wholeBlocks :: cs) =
      if s.srcLen.toNat = 0 ∨ s.srcLen.toNat % 16 ≠ 0 then some .ctLength else firstFail cs :=
  firstFail_cons (by simp [State.wholeBlocks, State.len])

/-- The structure checks in front of other checks, with R302's own condition on the integer N = n − 37 − T. -/
theorem firstFail_decodeChecks (s : State) (r : Region) (t : Nat) (cs : List Check) :
    firstFail (s.decodeChecks r t ++ cs) =
      if r.len < 69 then some .malformedPacket
      else if s.memRead r.addr 4 ≠ flagBytes then some .malformedPacket
      else if (r.len : Int) - 37 - t ≤ 0 ∨ ((r.len : Int) - 37 - t) % 16 ≠ 0 then some .ctLength
      else firstFail cs := by
  have h : (decide (r.len ≤ headerLen + t) || packetCtLen r.len t % 16 != 0) = true ↔
      r.len ≤ 37 + t ∨ (r.len - 37 - t) % 16 ≠ 0 := by
    rw [Bool.or_eq_true, decide_eq_true_eq, bne_iff_ne]; rfl
  unfold State.decodeChecks
  rw [List.cons_append, List.cons_append, List.cons_append, List.nil_append,
    firstFail_cons (P := r.len < 69) (by simp), firstFail_cons (P := s.memRead r.addr 4 ≠ flagBytes) (by simp),
    firstFail_cons (P := (r.len : Int) - 37 - t ≤ 0 ∨ ((r.len : Int) - 37 - t) % 16 ≠ 0) (h.trans (by omega))]

end Sys2Proof.Machine
end

