-- ==== Sys2Proof/Laws/Crypto.lean ====
section
/-! SUPPORT. The lengths the primitives give, and the arithmetic of GF(2^8) that the AES inverse rests on. -/

namespace Sys2Proof.Machine

/-! ### Lengths -/

@[simp] theorem unload_length (s : AesState) : s.unload.length = 16 := rfl

@[simp] theorem aesEncBlock_length (k b : List Byte) : (aesEncBlock k b).length = 16 := rfl

@[simp] theorem aesDecBlock_length (k b : List Byte) : (aesDecBlock k b).length = 16 := rfl

@[simp] theorem sha256_length (m : List Byte) : (sha256 m).length = 32 := by
  simp [sha256, shaHash, ShaVars.words]

@[simp] theorem sha512_length (m : List Byte) : (sha512 m).length = 64 := by
  simp [sha512, shaHash, ShaVars.words]

@[simp] theorem deriveKeys_length (m : List Byte) : (deriveKeys m).length = 64 := sha512_length m

@[simp] theorem hmac256_length (k m : List Byte) : (hmac256 k m).length = 32 := sha256_length _

/-- A tag is T bytes long. -/
theorem macTag_length (k m : List Byte) {t : Nat} (ht : t ≤ 32) : (macTag k m t).length = t := by
  simp [macTag]; omega

@[simp] theorem cbcEncBlocks_length (k prev : List Byte) (ps : List (List Byte)) :
    (cbcEncBlocks k prev ps).length = ps.length := by
  induction ps generalizing prev with
  | nil => rfl
  | cons p ps ih => simp [cbcEncBlocks, ih]

/-- Every ciphertext block is 16 bytes long. -/
theorem cbcEncBlocks_block {k prev : List Byte} {ps : List (List Byte)} {c : List Byte}
    (h : c ∈ cbcEncBlocks k prev ps) : c.length = 16 := by
  induction ps generalizing prev with
  | nil => simp [cbcEncBlocks] at h
  | cons p ps ih =>
    rcases List.mem_cons.mp (by simpa [cbcEncBlocks] using h) with rfl | h
    · simp
    · exact ih h

/-- A ciphertext has as many bytes as its whole blocks of plaintext. -/
theorem cbcEnc_length (k iv p : List Byte) : (cbcEnc k iv p).length = 16 * (p.length / 16) := by
  have h : (cbcEncBlocks k iv (blocks 16 (p.length / 16) p)).map List.length =
      List.replicate (p.length / 16) 16 := by
    rw [List.eq_replicate_iff]
    refine ⟨by simp, fun n hn => ?_⟩
    obtain ⟨c, hc, rfl⟩ := List.mem_map.mp hn
    exact cbcEncBlocks_block hc
  rw [cbcEnc, List.length_flatten, h, List.sum_replicate, smul_eq_mul, Nat.mul_comm]

/-- Padding makes whole blocks: 16 · (ℓ div 16 + 1) bytes. -/
theorem pkcs7Pad_length (p : List Byte) : (pkcs7Pad p).length = 16 * (p.length / 16 + 1) := by
  simp [pkcs7Pad, padLen]; omega

/-! ### GF(2^8) -/

theorem byte_xor_left_comm (a b c : Byte) : a ^^^ (b ^^^ c) = b ^^^ (a ^^^ c) := by
  rw [← BitVec.xor_assoc, BitVec.xor_comm a b, BitVec.xor_assoc]

theorem byte_xor_cancel (a b : Byte) : a ^^^ (a ^^^ b) = b := by simp

theorem xtime_xor (a b : Byte) : xtime (a ^^^ b) = xtime a ^^^ xtime b := by
  simp only [xtime, BitVec.shiftLeft_xor_distrib, BitVec.getLsbD_xor]
  cases a.getLsbD 7 <;> cases b.getLsbD 7 <;> simp [BitVec.xor_assoc]
  exact BitVec.xor_comm _ _

theorem gfMulFrom_xor (a b c : Byte) (n : Nat) :
    gfMulFrom (a ^^^ b) c n = gfMulFrom a c n ^^^ gfMulFrom b c n := by
  induction n generalizing a b with
  | zero => simp [gfMulFrom]
  | succ n ih =>
    simp only [gfMulFrom, xtime_xor, ih]
    split
    · rw [BitVec.xor_assoc, BitVec.xor_assoc, byte_xor_left_comm b]
    · simp

/-- Multiplication by a constant is linear. -/
theorem gfMul_xor (a b c : Byte) : gfMul (a ^^^ b) c = gfMul a c ^^^ gfMul b c := gfMulFrom_xor a b c 8

/-- `a • (k • l) = (a • k) • l` on the entries `k` of the mix matrix and `l` of its inverse, over all bytes. -/
def mixConstantsCompose : Bool :=
  (List.finRange 256).all fun x => [0x01, 0x02, 0x03].all fun k => [0x09, 0x0b, 0x0d, 0x0e].all fun l =>
    gfMul (gfMul (BitVec.ofFin x) k) l == gfMul (BitVec.ofFin x) (gfMul k l)

theorem mixConstantsCompose_true : mixConstantsCompose = true := by decide +kernel

/-- Multiplications by the constants of the two mix matrices compose. -/
theorem gfMul_const (a : Byte) {k l : Byte} (hk : k ∈ [(0x01 : Byte), 0x02, 0x03])
    (hl : l ∈ [(0x09 : Byte), 0x0b, 0x0d, 0x0e]) : gfMul (gfMul a k) l = gfMul a (gfMul k l) := by
  have h := mixConstantsCompose_true
  simp only [mixConstantsCompose, List.all_eq_true, beq_iff_eq] at h
  exact h a.toFin (List.mem_finRange _) k hk l hl

theorem gfMulFrom_xor_right (a c d : Byte) (n : Nat) :
    gfMulFrom a (c ^^^ d) n = gfMulFrom a c n ^^^ gfMulFrom a d n := by
  induction n generalizing a with
  | zero => simp [gfMulFrom]
  | succ n ih =>
    simp only [gfMulFrom, ih, BitVec.getLsbD_xor]
    cases c.getLsbD (7 - n) <;> cases d.getLsbD (7 - n) <;> simp [BitVec.xor_assoc]
    · exact byte_xor_left_comm _ _ _
    · rw [byte_xor_left_comm _ a, byte_xor_cancel]

/-- `a • (c ⊕ d) = a • c ⊕ a • d`. -/
theorem gfMul_xor_right (a c d : Byte) : gfMul a (c ^^^ d) = gfMul a c ^^^ gfMul a d := gfMulFrom_xor_right a c d 8

end Sys2Proof.Machine
end

