-- ==== Sys2Proof/Laws/Memory.lean ====
section
/-! SUPPORT. The buffer: reading after writing, and the canonical form, which every memory operation keeps. -/

namespace Sys2Proof.Machine

/-! ### Reading after writing -/

/-- In a canonical list whose first address is above `a`, byte `a` is unlisted. -/
theorem readByte_of_lt {lo a : Nat} {m : Memory} (h : Memory.wfFrom lo m = true) (ha : a < lo) :
    Memory.readByte m a = unlistedByte := by
  induction m generalizing lo with
  | nil => rfl
  | cons c m ih =>
    obtain ⟨c, v⟩ := c
    simp only [Memory.wfFrom, Bool.and_eq_true, decide_eq_true_eq] at h
    have hne : a ≠ c := by omega
    simp [Memory.readByte, hne, ih h.2 (by omega)]

/-- The byte written is the byte read. -/
theorem readByte_writeByte {lo : Nat} {m : Memory} (h : Memory.wfFrom lo m = true) (a x : Nat) (b : Byte) :
    Memory.readByte (Memory.writeByte m a b) x = if x = a then b else Memory.readByte m x := by
  induction m generalizing lo with
  | nil =>
    by_cases hb : b = unlistedByte <;> by_cases hx : x = a <;> simp_all [Memory.writeByte, Memory.readByte]
  | cons c m ih =>
    obtain ⟨c, v⟩ := c
    simp only [Memory.wfFrom, Bool.and_eq_true, decide_eq_true_eq] at h
    unfold Memory.writeByte
    by_cases hac : a < c
    · have hm : Memory.readByte m a = unlistedByte := readByte_of_lt h.2 (by omega)
      by_cases hb : b = unlistedByte <;> by_cases hx : x = a
      · subst hx; simp [hac, hb, Memory.readByte, hm, show x ≠ c by omega]
      · simp [hac, hb, hx]
      · simp [hac, hb, hx, Memory.readByte]
      · simp [hac, hb, hx, Memory.readByte]
    · by_cases hc : a = c
      · subst hc
        have hm : Memory.readByte m a = unlistedByte := readByte_of_lt h.2 (by omega)
        by_cases hb : b = unlistedByte <;> by_cases hx : x = a <;> simp_all [Memory.readByte]
      · by_cases hx : x = c
        · subst hx; simp [hac, hc, Memory.readByte, Ne.symm hc]
        · simp [hac, hc, hx, Memory.readByte, ih h.2]

/-! ### The canonical form -/

/-- A canonical list from `lo` up is canonical from any lower address up. -/
theorem wfFrom_mono {lo lo' : Nat} {m : Memory} (h : Memory.wfFrom lo m = true) (hle : lo' ≤ lo) :
    Memory.wfFrom lo' m = true := by
  cases m with
  | nil => rfl
  | cons c m =>
    simp only [Memory.wfFrom, Bool.and_eq_true, decide_eq_true_eq] at h ⊢
    exact ⟨⟨by omega, h.1.2⟩, h.2⟩

/-- A write at or above `lo` keeps the canonical form from `lo` up. -/
theorem writeByte_wfFrom {lo : Nat} {m : Memory} (h : Memory.wfFrom lo m = true) {a : Nat} (ha : lo ≤ a) (b : Byte) :
    Memory.wfFrom lo (Memory.writeByte m a b) = true := by
  induction m generalizing lo with
  | nil => by_cases hb : b = unlistedByte <;> simp [Memory.writeByte, Memory.wfFrom, hb, ha]
  | cons c m ih =>
    obtain ⟨c, v⟩ := c
    have h0 := h
    simp only [Memory.wfFrom, Bool.and_eq_true, decide_eq_true_eq] at h
    unfold Memory.writeByte
    by_cases hac : a < c
    · by_cases hb : b = unlistedByte
      · simpa [hac, hb] using h0
      · simp [hac, hb, Memory.wfFrom, ha, h.1.2, h.2, show a + 1 ≤ c by omega]
    · by_cases hc : a = c
      · subst hc
        by_cases hb : b = unlistedByte
        · simpa [hb] using wfFrom_mono h.2 (by omega)
        · simp [hb, Memory.wfFrom, ha, h.2]
      · simp [hac, hc, Memory.wfFrom, h.1.1, ih h.2 (by omega)]
        simpa using h.1.2

/-- Every byte write keeps the canonical form. -/
theorem writeByte_wf {m : Memory} (h : m.wf = true) (a : Nat) (b : Byte) : (m.writeByte a b).wf = true :=
  writeByte_wfFrom h (Nat.zero_le a) b

/-- A byte write below `n` keeps the list below `n`. -/
theorem writeByte_below {n : Nat} {m : Memory} (h : Memory.below n m = true) {a : Nat} (ha : a < n) (b : Byte) :
    Memory.below n (Memory.writeByte m a b) = true := by
  induction m with
  | nil => by_cases hb : b = unlistedByte <;> simp [Memory.writeByte, Memory.below, hb, ha]
  | cons c m ih =>
    obtain ⟨c, v⟩ := c
    simp only [Memory.below, List.all_cons, Bool.and_eq_true, decide_eq_true_eq] at h ih ⊢
    unfold Memory.writeByte
    split
    · split <;> simp [h.1, h.2, ha]
    · split
      · split <;> simp [h.2, ha]
      · simp [h.1, ih h.2]

/-- Every string write keeps the canonical form. -/
theorem write_wf {m : Memory} (h : m.wf = true) (a : Nat) (v : List Byte) : (m.write a v).wf = true := by
  induction v generalizing m a with
  | nil => exact h
  | cons b v ih => exact ih (writeByte_wf h a b) (a + 1)

/-- A string write within `n` bytes keeps the list below `n`. -/
theorem write_below {n : Nat} {m : Memory} (h : Memory.below n m = true) {a : Nat} {v : List Byte}
    (ha : a + v.length ≤ n) : Memory.below n (m.write a v) = true := by
  induction v generalizing m a with
  | nil => exact h
  | cons b v ih =>
    simp only [List.length_cons] at ha
    exact ih (writeByte_below h (by omega) b) (by omega)

/-- A drawn buffer is canonical and lies in the buffer. -/
theorem drawn_wf (n : Nat) (cells : List Host.Cell) :
    (Memory.drawn n cells).wf = true ∧ Memory.below n (Memory.drawn n cells) = true := by
  unfold Memory.drawn
  suffices h : ∀ m : Memory, m.wf = true ∧ Memory.below n m = true →
      Memory.wf (cells.foldl (fun m c => if c.1 < n then m.writeByte c.1 c.2 else m) m) = true ∧
        Memory.below n (cells.foldl (fun m c => if c.1 < n then m.writeByte c.1 c.2 else m) m) = true from
    h [] ⟨rfl, rfl⟩
  induction cells with
  | nil => exact fun m h => h
  | cons c cells ih =>
    intro m h
    refine ih _ ?_
    by_cases hc : c.1 < n
    · simpa [hc] using ⟨writeByte_wf h.1 c.1 c.2, writeByte_below h.2 hc c.2⟩
    · simpa [hc] using h

/-- The memory after reset is canonical. -/
theorem reset_wf : State.reset.buf.wf = true := rfl

/-! ### Strings -/

@[simp] theorem read_length (m : Memory) (a n : Nat) : (m.read a n).length = n := by
  induction n generalizing a with
  | zero => rfl
  | succ n ih => simp [Memory.read, ih]

/-- A string read is the bytes read one at a time. -/
theorem read_eq_map (m : Memory) (a n : Nat) : m.read a n = (List.range n).map fun i => m.readByte (a + i) := by
  induction n generalizing a with
  | zero => rfl
  | succ n ih => simp [Memory.read, ih, List.range_succ_eq_map, Function.comp_def, Nat.add_comm, Nat.add_left_comm]

/-- A string written is the string read, and no other byte changes. -/
theorem readByte_write {m : Memory} (h : m.wf = true) (a x : Nat) (v : List Byte) :
    (m.write a v).readByte x = if a ≤ x ∧ x < a + v.length then v.getD (x - a) 0 else m.readByte x := by
  induction v generalizing m a with
  | nil => simp [Memory.write]
  | cons b v ih =>
    rw [Memory.write, ih (writeByte_wf h a b), readByte_writeByte h]
    by_cases h1 : a + 1 ≤ x
    · have : x - a = (x - (a + 1)) + 1 := by omega
      by_cases h2 : x < a + 1 + v.length
      · simp [h1, h2, this, show a ≤ x by omega, show x < a + (v.length + 1) by omega]
      · simp [h1, h2, show x ≠ a by omega, show ¬ x < a + (v.length + 1) by omega]
    · by_cases h3 : x = a
      · subst h3; simp
      · simp [h1, h3, show ¬ a ≤ x by omega]

end Sys2Proof.Machine
end

