-- ==== Sys2Proof/Laws/Exec.lean ====
section
/-! SUPPORT. What each command can do: one inversion lemma per command and per operation the commands share. -/

namespace Sys2Proof.Machine

/-! ### The shared operations -/

/-- A decryption ends in the zero-fill or in the plaintext. -/
theorem unpadTo_cases (s : State) (out : Region) (d : List Byte) (bad : ErrCode) :
    (pkcs7Check d = none ∧ s.unpadTo out d bad = s.failClosed out bad) ∨
      ∃ p, pkcs7Check d = some p ∧
        s.unpadTo out d bad = (s.memWrite out.addr (slice d 0 (out.len - p))).complete (out.len - p) := by
  unfold State.unpadTo
  cases pkcs7Check d with
  | none => exact .inl ⟨rfl, rfl⟩
  | some p => exact .inr ⟨p, rfl, rfl⟩

/-- A valid pad length is 1 to 16. -/
theorem pkcs7Check_range {d : List Byte} {p : Nat} (h : pkcs7Check d = some p) : 1 ≤ p ∧ p ≤ 16 := by
  simp only [pkcs7Check] at h
  split at h
  · cases h
  · split at h
    · cases h
    · simp only [Option.some.injEq] at h
      omega

/-! ### The commands -/

theorem execKdf_cases (x : Bool) (s : State) :
    (∃ e, firstFail (kdfChecks x s) = some e ∧ execKdf x s = .next (s.raiseErr e)) ∨
      (firstFail (kdfChecks x s) = none ∧
        execKdf x s = .next
          (if x then ((s.keyLoad (deriveKeys (s.readRegion (s.srcRegion 33)))).memWrite s.dstAddr.toNat
              (deriveKeys (s.readRegion (s.srcRegion 33)))).complete 64
            else (s.keyLoad (deriveKeys (s.readRegion (s.srcRegion 33)))).complete 0)) := by
  unfold execKdf
  cases firstFail (kdfChecks x s) with
  | some e => exact .inl ⟨e, rfl, rfl⟩
  | none => exact .inr ⟨rfl, by cases x <;> rfl⟩

theorem execKeyload_cases (s : State) :
    (∃ e, firstFail (keyloadChecks s) = some e ∧ execKeyload s = .next (s.raiseErr e)) ∨
      (firstFail (keyloadChecks s) = none ∧
        execKeyload s = .next ((s.keyLoad (s.readRegion (s.srcRegion 64))).complete 0)) := by
  unfold execKeyload
  cases firstFail (keyloadChecks s) with
  | some e => exact .inl ⟨e, rfl, rfl⟩
  | none => exact .inr ⟨rfl, rfl⟩

theorem execAesEnc_cases (s : State) :
    (∃ e, firstFail (aesEncChecks s) = some e ∧ execAesEnc s = .next (s.raiseErr e)) ∨
      (firstFail (aesEncChecks s) = none ∧
        execAesEnc s = .next
          ((s.memWrite s.dstAddr.toNat (s.encrypt (s.readRegion (s.srcRegion s.len)))).complete (paddedLen s.len))) := by
  unfold execAesEnc
  cases firstFail (aesEncChecks s) with
  | some e => exact .inl ⟨e, rfl, rfl⟩
  | none => exact .inr ⟨rfl, rfl⟩

theorem execAesDec_cases (s : State) :
    (∃ e, firstFail (aesDecChecks s) = some e ∧ execAesDec s = .next (s.raiseErr e)) ∨
      (firstFail (aesDecChecks s) = none ∧
        execAesDec s = .next
          (s.unpadTo (s.dstRegion s.len) (s.decrypt (s.readRegion (s.srcRegion s.len))) .padding)) := by
  unfold execAesDec
  cases firstFail (aesDecChecks s) with
  | some e => exact .inl ⟨e, rfl, rfl⟩
  | none => exact .inr ⟨rfl, rfl⟩

theorem execMacGen_cases (s : State) :
    (∃ e, firstFail (macGenChecks s) = some e ∧ execMacGen s = .next (s.raiseErr e)) ∨
      (firstFail (macGenChecks s) = none ∧
        execMacGen s = .next
          ((s.memWrite s.dstAddr.toNat (s.tagOf (s.readRegion (s.srcRegion s.len)))).complete s.tagLen)) := by
  unfold execMacGen
  cases firstFail (macGenChecks s) with
  | some e => exact .inl ⟨e, rfl, rfl⟩
  | none => exact .inr ⟨rfl, rfl⟩

theorem execMacVerify_cases (s : State) :
    (∃ e, firstFail (macVerifyChecks s) = some e ∧ execMacVerify s = .next (s.raiseErr e)) ∨
      (firstFail (macVerifyChecks s) = none ∧
        (execMacVerify s = .next (s.complete 0) ∨ execMacVerify s = .next (s.raiseErr .auth))) := by
  unfold execMacVerify
  cases firstFail (macVerifyChecks s) with
  | some e => exact .inl ⟨e, rfl, rfl⟩
  | none =>
    refine .inr ⟨rfl, ?_⟩
    dsimp only
    split
    · exact .inl rfl
    · exact .inr rfl

theorem execPktEncode_cases (s : State) :
    (∃ e, firstFail (pktEncodeChecks s) = some e ∧ execPktEncode s = .next (s.raiseErr e)) ∨
      (firstFail (pktEncodeChecks s) = none ∧
        execPktEncode s = .next ((s.memWrite s.dstAddr.toNat
          (flagBytes ++ s.readRegion s.pubRegion ++ s.readRegion (s.srcRegion s.len) ++
            s.readRegion s.tagRegion)).complete s.encodedLen)) := by
  unfold execPktEncode
  cases firstFail (pktEncodeChecks s) with
  | some e => exact .inl ⟨e, rfl, rfl⟩
  | none => exact .inr ⟨rfl, rfl⟩

theorem execPktDecode_cases (s : State) :
    (∃ e, firstFail (pktDecodeChecks s) = some e ∧ execPktDecode s = .next (s.raiseErr e)) ∨
      (firstFail (pktDecodeChecks s) = none ∧
        execPktDecode s = .next (s.complete (packetCtLen s.len s.tagLen))) := by
  unfold execPktDecode
  cases firstFail (pktDecodeChecks s) with
  | some e => exact .inl ⟨e, rfl, rfl⟩
  | none => exact .inr ⟨rfl, rfl⟩

theorem sealBody_cases (s : State) :
    (∃ e, firstFail (sealChecks s) = some e ∧ sealBody s = s.raiseErr e) ∨
      (firstFail (sealChecks s) = none ∧
        sealBody s =
          (s.memWrite s.dstAddr.toNat (s.sealedPrefix ++ s.tagOf s.sealedPrefix)).complete s.sealedLen) := by
  unfold sealBody
  cases firstFail (sealChecks s) with
  | some e => exact .inl ⟨e, rfl, rfl⟩
  | none => exact .inr ⟨rfl, rfl⟩

theorem openBody_cases (s : State) :
    (∃ e, firstFail (openChecks s) = some e ∧ openBody s = s.raiseErr e) ∨
      (firstFail (openChecks s) = none ∧
        (openBody s = s.failClosed (s.dstRegion s.openedLen) .auth ∨
          openBody s = s.unpadTo (s.dstRegion s.openedLen)
            (s.decrypt (s.memRead (s.srcAddr.toNat + headerLen) s.openedLen)) s.openPaddingCode)) := by
  unfold openBody
  cases firstFail (openChecks s) with
  | some e => exact .inl ⟨e, rfl, rfl⟩
  | none =>
    refine .inr ⟨rfl, ?_⟩
    dsimp only
    split
    · exact .inr rfl
    · exact .inl rfl

/-- No command stops the machine: every meaning answers a next state. -/
theorem exec_next (i : Instr) (s : State) : ∃ t, exec i s = .next t := by
  cases i with
  | nop => exact ⟨_, rfl⟩
  | kdf x => rcases execKdf_cases x s with ⟨e, -, h⟩ | ⟨-, h⟩ <;> exact ⟨_, h⟩
  | keyload => rcases execKeyload_cases s with ⟨e, -, h⟩ | ⟨-, h⟩ <;> exact ⟨_, h⟩
  | keyclear => exact ⟨_, rfl⟩
  | aesEnc => rcases execAesEnc_cases s with ⟨e, -, h⟩ | ⟨-, h⟩ <;> exact ⟨_, h⟩
  | aesDec => rcases execAesDec_cases s with ⟨e, -, h⟩ | ⟨-, h⟩ <;> exact ⟨_, h⟩
  | macGen => rcases execMacGen_cases s with ⟨e, -, h⟩ | ⟨-, h⟩ <;> exact ⟨_, h⟩
  | macVerify => rcases execMacVerify_cases s with ⟨e, -, h⟩ | ⟨-, h | h⟩ <;> exact ⟨_, h⟩
  | pktEncode => rcases execPktEncode_cases s with ⟨e, -, h⟩ | ⟨-, h⟩ <;> exact ⟨_, h⟩
  | pktDecode => rcases execPktDecode_cases s with ⟨e, -, h⟩ | ⟨-, h⟩ <;> exact ⟨_, h⟩
  | sealPkt => exact ⟨_, rfl⟩
  | openPkt => exact ⟨_, rfl⟩

end Sys2Proof.Machine
end

