-- ==== Sys2Proof/Laws/Host.lean ====
section
/-! SUPPORT. What a bus transaction can do to the block. -/

namespace Sys2Proof.Machine

/-- A register write is one of: nothing, a flag clear, a refusal recorded in a flag, one register written, or an acceptance. -/
theorem regWrite_cases (s : State) (v : Word) (r : Register) :
    (s.busy = true ∧ ((s.regWrite v r = { s with accErr := true }) ∨ (s.regWrite v r = { s with cmdRej := true }))) ∨
      (s.busy = false ∧ (s.regWrite v r = { s with ctrl := v.extractLsb' 0 4 } ∨ s.regWrite v r = { s with srcAddr := v } ∨
        s.regWrite v r = { s with srcLen := v } ∨ s.regWrite v r = { s with dstAddr := v } ∨
        s.regWrite v r = { s with pubAddr := v } ∨ s.regWrite v r = { s with tagAddr := v } ∨
        s.regWrite v r = s.accept v)) ∨
      s.regWrite v r = s.writeStatus v ∨ s.regWrite v r = s := by
  cases hb : s.busy <;> cases r <;> simp [State.regWrite, State.unlessBusy, State.writeCmd, hb]

/-- A STATUS write changes no field but DONE, ACCERR and CMDREJ, and only clears them. -/
theorem writeStatus_eq (s : State) (v : Word) :
    s.writeStatus v =
      { s with
        done := s.done && !v.getLsbD 1
        accErr := s.accErr && !v.getLsbD 8
        cmdRej := s.cmdRej && !v.getLsbD 9 } := by
  unfold State.writeStatus State.acknowledge
  cases v.getLsbD 1 <;> cases v.getLsbD 8 <;> cases v.getLsbD 9 <;> simp

/-- What a transaction leaves: the block unchanged, a refused buffer access, a register write, or a buffer write. -/
theorem hostStep_cases (s : State) (t : Txn) :
    (s.hostStep t).2 = s ∨
      (s.busy = true ∧ (s.hostStep t).2 = { s with accErr := true }) ∨
      (s.busy = true ∧ (s.hostStep t).2 = { s with accErr := true, draws := s.draws + 1 }) ∨
      (∃ v r, (s.hostStep t).2 = s.regWrite v r) ∨
      (s.busy = false ∧ t.off.toNat - 0x10000 < s.bufBytes ∧ t.off.toNat % t.size.toNat = 0 ∧
        ∃ v, (s.hostStep t).2 =
          { s with buf := s.buf.write (t.off.toNat - 0x10000) (bytesLE t.size.toNat v) }) := by
  unfold State.hostStep
  split
  · unfold State.registerTxn
    split
    · exact .inl rfl
    · cases t.access with
      | read => exact .inl rfl
      | write v =>
        dsimp only
        unfold State.writeReg
        cases registerAt t.off.toNat with
        | none => exact .inl rfl
        | some r => exact .inr (.inr (.inr (.inl ⟨v, r, rfl⟩)))
  · unfold State.windowTxn
    dsimp only
    split
    · exact .inl rfl
    · rename_i h
      split
      · exact .inl rfl
      · rename_i ha
        split
        · rename_i hb
          cases t.access with
          | read => exact .inr (.inr (.inl ⟨hb, rfl⟩))
          | write v => exact .inr (.inl ⟨hb, rfl⟩)
        · rename_i hb
          cases t.access with
          | read => exact .inl rfl
          | write v =>
            exact .inr (.inr (.inr (.inr ⟨by simpa using hb, by omega, by simpa using h, v.toNat, rfl⟩)))

/-- No transaction touches the key registers, the parameters or the schedule. -/
theorem hostStep_hidden (s : State) (t : Txn) :
    (s.hostStep t).2.keys = s.keys ∧ (s.hostStep t).2.keyValid = s.keyValid ∧ (s.hostStep t).2.cfg = s.cfg ∧
      (s.hostStep t).2.sched = s.sched := by
  rcases hostStep_cases s t with h | ⟨-, h⟩ | ⟨-, h⟩ | ⟨v, r, h⟩ | ⟨-, -, -, v, h⟩
  · simp [h]
  · simp [h]
  · simp [h]
  · rcases regWrite_cases s v r with ⟨-, h' | h'⟩ | ⟨-, h' | h' | h' | h' | h' | h' | h'⟩ | h' | h' <;>
      simp [h, h', writeStatus_eq]
  · simp [h]

/-- The buffer's size is a multiple of four, so no aligned access that starts in the buffer leaves it (R81). -/
theorem aligned_fits (s : State) {a : Nat} {size : Size} (ha : a < s.bufBytes) (hm : (0x10000 + a) % size.toNat = 0) :
    a + size.toNat ≤ s.bufBytes := by
  have hb : s.bufBytes % 4 = 0 := by unfold State.bufBytes; rw [Nat.pow_add]; omega
  cases size <;> simp only [Size.toNat] at hm ⊢ <;> omega

/-- A transaction keeps the buffer canonical and inside the buffer. -/
theorem hostStep_buf (s : State) (t : Txn) (hw : s.buf.wf = true) (hb : Memory.below s.bufBytes s.buf = true) :
    (s.hostStep t).2.buf.wf = true ∧ Memory.below s.bufBytes (s.hostStep t).2.buf = true := by
  rcases hostStep_cases s t with h | ⟨-, h⟩ | ⟨-, h⟩ | ⟨v, r, h⟩ | ⟨ho, h⟩
  · simp [h, hw, hb]
  · simp [h, hw, hb]
  · simp [h, hw, hb]
  · rcases regWrite_cases s v r with ⟨-, h' | h'⟩ | ⟨-, h' | h' | h' | h' | h' | h' | h'⟩ | h' | h' <;>
      simp [h, h', writeStatus_eq, hw, hb]
  · obtain ⟨ha, hm, v, h⟩ := h
    rw [h]
    refine ⟨write_wf hw _ _, write_below hb ?_⟩
    by_cases hl : 0x10000 ≤ t.off.toNat
    · rw [bytesLE_length]
      exact aligned_fits s ha (by rwa [Nat.add_sub_cancel' hl])
    · rw [bytesLE_length, Nat.sub_eq_zero_of_le (by omega)] at *
      exact aligned_fits s ha (by cases t.size <;> rfl)

/-- A window operand at a buffer address names its own offset. -/
theorem decodedOffset_win {a : Nat} (h : a < 0x10000) :
    (HostPlace.win a).decodedOffset = some (BitVec.ofNat 17 (0x10000 + a)) :=
  if_pos (by simp only [HostPlace.offset]; omega)

end Sys2Proof.Machine
end

