-- ==== Sys2Proof/Laws/PerInstr.lean ====
section
/-! SUPPORT. Statements made one command at a time, for the host's case split over `Instr`. -/

namespace Sys2Proof.Laws.TableRow

/-- The bits the command's row of spec/opcode_table.json fixes: every bit, but for bit 8 of KDF. -/
def mask : Instr → Word
  | .kdf _ => 0xFFFFFEFF
  | .nop | .keyload | .keyclear | .aesEnc | .aesDec | .macGen | .macVerify => 0xFFFFFFFF
  | .pktEncode | .pktDecode | .sealPkt | .openPkt => 0xFFFFFFFF

/-- The value the row gives those bits. -/
def pattern : Instr → Word
  | .nop => 0x00000000
  | .kdf _ => 0x00000001
  | .keyload => 0x00000002
  | .keyclear => 0x00000003
  | .aesEnc => 0x00000010
  | .aesDec => 0x00000011
  | .macGen => 0x00000020
  | .macVerify => 0x00000021
  | .pktEncode => 0x00000030
  | .pktDecode => 0x00000031
  | .sealPkt => 0x00000040
  | .openPkt => 0x00000041

/-- A command's word is legal (R113) and has the bits its row fixes. -/
def Statement (i : Instr) : Prop := legalWord (encode i) = true ∧ encode i &&& mask i = pattern i

theorem nop : Statement .nop := by unfold Statement; decide
theorem kdf (x : Bool) : Statement (.kdf x) := by unfold Statement; revert x; decide
theorem keyload : Statement .keyload := by unfold Statement; decide
theorem keyclear : Statement .keyclear := by unfold Statement; decide
theorem aesEnc : Statement .aesEnc := by unfold Statement; decide
theorem aesDec : Statement .aesDec := by unfold Statement; decide
theorem macGen : Statement .macGen := by unfold Statement; decide
theorem macVerify : Statement .macVerify := by unfold Statement; decide
theorem pktEncode : Statement .pktEncode := by unfold Statement; decide
theorem pktDecode : Statement .pktDecode := by unfold Statement; decide
theorem sealPkt : Statement .sealPkt := by unfold Statement; decide
theorem openPkt : Statement .openPkt := by unfold Statement; decide

end Sys2Proof.Laws.TableRow
end

