-- ==== Sys2Proof/Laws/Safety.lean ====
section
/-! SUPPORT. The terms of the claims in the machine's own operations. -/

namespace Sys2Proof.Machine

theorem memRead_eq_bytesAt (s : State) (a n : Nat) : s.memRead a n = s.bytesAt a n := read_eq_map s.buf a n

@[simp] theorem bytesAt_length (s : State) (a n : Nat) : (s.bytesAt a n).length = n := by simp [State.bytesAt]

theorem complete_eq_endedWith (s : State) (n : Nat) : s.complete n = s.endedWith .ok n := by
  simp [State.complete, State.finish, State.endedWith]

theorem raiseErr_eq_endedWith (s : State) (e : ErrCode) : s.raiseErr e = s.endedWith e 0 := by
  simp [State.raiseErr, State.finish, State.endedWith]

theorem autoClear_eq_afterAutoclr (s : State) : s.autoClear = s.afterAutoclr := by
  unfold State.autoClear State.afterAutoclr State.autoclr State.keyClear
  split <;> simp_all [bytes]

theorem tagLen_eq_t (s : State) : s.tagLen = s.t := rfl

/-- A string write stores its string and changes no other byte. -/
theorem memWrite_storedOver (s : State) (h : s.buf.wf = true) (a : Nat) (v : List Byte) :
    s.storedOver (s.memWrite a v) a v :=
  fun x => readByte_write h a x v

end Sys2Proof.Machine
end

