-- ==== Sys2Proof/Tests/Slice0.lean ====
section
/-! SUPPORT. The model's own tests. Expected values come from spec/95_test_vectors.md, whose vector is named beside each, or
from the rule named; a test that starts `witness_` shows states that meet the hypotheses, or reach the clauses, of the
statement of that name. -/

namespace Sys2Proof.Tests

open Sys2Proof.Machine

-- One kernel evaluation at a time: a hundred at once ask for more threads than memory allows.
set_option Elab.async false

/-! ### Well-formedness: an ill-formed word for each check of R113 -/

theorem test_illFormed_reserved : rsvdClear 0x00010001 = false ∧ legalWord 0x00010001 = false := by decide
theorem test_illFormed_opcode : opcodeAssigned 0x00000004 = false ∧ legalWord 0x00000004 = false := by decide
theorem test_illFormed_mod : modClear 0x00000100 = false ∧ legalWord 0x00000100 = false := by decide
theorem test_illFormed_kdfMod : kdfModClear 0x00000201 = false ∧ legalWord 0x00000201 = false := by decide
theorem test_wellFormed : ∀ x, (Instr.kdf x).wellFormed = true := by decide

/-! ### Decoding: every constructor from its word, bits 31 to 0 as R110 and R112 lay them out -/

theorem test_decode_nop : decode 0b0000000000000000_00000000_00000000 = .ok .nop := by decide
theorem test_decode_kdf : decode 0b0000000000000000_00000000_00000001 = .ok (.kdf false) := by decide
theorem test_decode_kdf_x : decode 0b0000000000000000_00000001_00000001 = .ok (.kdf true) := by decide
theorem test_decode_keyload : decode 0b0000000000000000_00000000_00000010 = .ok .keyload := by decide
theorem test_decode_keyclear : decode 0b0000000000000000_00000000_00000011 = .ok .keyclear := by decide
theorem test_decode_aesEnc : decode 0b0000000000000000_00000000_00010000 = .ok .aesEnc := by decide
theorem test_decode_aesDec : decode 0b0000000000000000_00000000_00010001 = .ok .aesDec := by decide
theorem test_decode_macGen : decode 0b0000000000000000_00000000_00100000 = .ok .macGen := by decide
theorem test_decode_macVerify : decode 0b0000000000000000_00000000_00100001 = .ok .macVerify := by decide
theorem test_decode_pktEncode : decode 0b0000000000000000_00000000_00110000 = .ok .pktEncode := by decide
theorem test_decode_pktDecode : decode 0b0000000000000000_00000000_00110001 = .ok .pktDecode := by decide
theorem test_decode_seal : decode 0b0000000000000000_00000000_01000000 = .ok .sealPkt := by decide
theorem test_decode_open : decode 0b0000000000000000_00000000_01000001 = .ok .openPkt := by decide
/-- V-ILL-100, V-ILL-201, V-ILL-10001, V-ILL-4, V-ILL-FF, V-ILL-80000040. -/
theorem test_decode_illegal :
    [0x00000100, 0x00000201, 0x00010001, 0x00000004, 0x000000FF, 0x80000040].map (fun w => (decode w).toOption) =
      [none, none, none, none, none, none] := by decide

/-! ### Small states -/

/-- The constants of 95_test_vectors.md section 1. -/
def vecS : List Byte := bytesBE 33 0x031cc3959f09765b99d8323496bd1b27126c0dcc6ca369ec66b6cdef324301614a
def vecK1Value : Nat :=
  0x4a76311614a90d81a7c4f8d038c91f5fa4375fefdde407b0728ca4d35475cd6794d936f43d8c2e22cc81b52f8c28bfd5ac5e74c45bf3cabfbf145fc0f0d92337
def vecK1 : List Byte := bytesBE 64 vecK1Value
def vecPub : List Byte := bytesBE 33 0x020102030405060708090a0b0c0d0e0f101112131415161718191a1b1c1d1e1f20
def vecHello : List Byte := bytesBE 11 0x48656c6c6f20776f726c64
def vecCtValue : Nat := 0x37ae432655fe95d444834c88e31b9c0e
def vecTagValue : Nat := 0x1f6998ea02d7a30476476e95915473cdcf07dbce7fdeb8bd8302e216c38b819a
def vecHeader : List Byte := bytesBE 4 0x42494531 ++ vecPub
def vecP1 : List Byte := vecHeader ++ bytesBE 16 vecCtValue ++ bytesBE 32 vecTagValue
def vecPB : List Byte :=
  vecHeader ++ bytes 16 0 ++ bytesBE 32 0x68de7a1571a8f62741ccce212655a783e7102595d68911c4c9e1ae6ae2423ebd

/-- A state with the keys K1, CTRL = `c`, and the operand registers SRC_ADDR, SRC_LEN, DST_ADDR, PUB_ADDR, TAG_ADDR. -/
def keyed (c : BitVec 4) (src len dst pub tag : Word) : State :=
  { State.reset with
    ctrl := c, keys := vecK1, keyValid := true, srcAddr := src, srcLen := len, dstAddr := dst, pubAddr := pub
    tagAddr := tag }

/-- The same without keys. -/
def keyless (c : BitVec 4) (src len dst pub tag : Word) : State :=
  { keyed c src len dst pub tag with keys := bytes 64 0, keyValid := false }

/-- The state a command leaves; the state itself if it stops. -/
def after (i : Instr) (s : State) : State :=
  match exec i s with
  | .next t => t
  | .fault _ | .refused _ => s

/-- The state a step leaves; the state itself if it stops. -/
def stepped (s : State) : State :=
  match step s with
  | .next t => t
  | .fault _ | .refused _ => s

/-- ERRCODE, OUT_LEN and STATUS. -/
def result (s : State) : BitVec 8 × Word × Word := (s.errCode.code, s.outLen, s.status)

/-! ### Primitives -/

/-- V-PRIM-2, V-PRIM-3. -/
theorem test_sha256_abc : beNat (sha256 [0x61, 0x62, 0x63]) =
    0xba7816bf8f01cfea414140de5dae2223b00361a396177a9cb410ff61f20015ad := by decide +kernel
theorem test_sha512_abc : beNat (sha512 [0x61, 0x62, 0x63]) =
    0xddaf35a193617abacc417349ae20413112e6fa4e89a97ea20a9eeee64b55d39a2192992a274fc1a836ba3c23a3feebbd454d4423643ce80e2a9ac94fa54ca49f := by
  decide +kernel
/-- V-PRIM-5. -/
theorem test_hmac : beNat (hmac256 ((List.range 32).map (BitVec.ofNat 8)) (bytesBE 8 0x4869205468657265)) =
    0x278639ec02309d3afded1b273f1349ba63b9089c12476d716bee3ecc94673e9e := by decide +kernel
/-- V-PRIM-7, V-PRIM-8. -/
theorem test_aes : beNat (aesEncBlock (bytesBE 16 0x000102030405060708090a0b0c0d0e0f)
      (bytesBE 16 0x00112233445566778899aabbccddeeff)) = 0x69c4e0d86a7b0430d8cdb78070b4c55a ∧
    beNat (aesDecBlock (bytesBE 16 0x000102030405060708090a0b0c0d0e0f)
      (bytesBE 16 0x69c4e0d86a7b0430d8cdb78070b4c55a)) = 0x00112233445566778899aabbccddeeff := by decide +kernel
/-- V-PRIM-10: the nine blocks and their results. -/
theorem test_pkcs7Check :
    [bytes 15 1 ++ [0x00], bytes 15 1 ++ [0x11], bytes 12 0 ++ bytes 4 5, bytes 11 0 ++ bytes 5 5, bytes 12 0 ++ bytes 4 4,
      bytes 16 0x10, [0x0f] ++ bytes 15 0x10, bytes 15 0 ++ [1], bytes 14 0 ++ [3, 2]].map pkcs7Check =
    [none, none, none, some 5, some 4, some 16, none, some 1, none] := by decide +kernel

/-! ### The commands, one step each -/

/-- V-KEY-1: NOP from reset. -/
theorem test_nop : result (after .nop State.reset) = (0x00, 0, 0x002) := by decide +kernel

/-- V-KEY-2: KDF with X = 1. -/
theorem test_kdf_export :
    let t := after (.kdf true) ((keyless 0xC 0 33 0x100 0 0).memWrite 0 vecS)
    result t = (0x00, 64, 0x00A) ∧ beNat (t.memRead 0x100 64) = vecK1Value ∧ beNat t.keys = vecK1Value := by decide +kernel

/-- The clauses of KDF: V-KEY-4, V-KEY-5, V-KEY-9, V-KEY-7, V-KEY-6 and V-KEY-8, each at its boundary. -/
theorem witness_KdfDerivesTheKeys :
    [after (.kdf false) (keyed 0xC 0 32 0 0 0), after (.kdf false) (keyless 0xC 4064 33 0 0 0),
      after (.kdf true) (keyless 0xC 0 33 4033 0 0), after (.kdf true) (keyless 0xC 0 33 0x20 0 0),
      after (.kdf false) (keyless 0xC 4063 33 0xFFFFFFFF 0 0), after (.kdf true) (keyless 0xC 0 33 0x21 0 0)].map result =
    [(0x02, 0, 0x00E), (0x03, 0, 0x006), (0x03, 0, 0x006), (0x04, 0, 0x006), (0x00, 0, 0x00A), (0x00, 64, 0x00A)] := by
  decide +kernel

/-- V-KEY-10: KEYLOAD of K1. -/
theorem test_keyload :
    let t := after .keyload ((keyless 0xC 0 64 0 0 0).memWrite 0 vecK1)
    result t = (0x00, 0, 0x00A) ∧ t.keys = vecK1 := by decide +kernel

/-- The clauses of KEYLOAD: V-KEY-11, V-KEY-12, and the last region that fits. -/
theorem witness_KeyloadLoadsTheKeys :
    [keyless 0xC 0 63 0 0 0, keyless 0xC 4033 64 0 0 0, keyless 0xC 4032 64 0 0 0].map (fun s => result (after .keyload s)) =
    [(0x02, 0, 0x006), (0x03, 0, 0x006), (0x00, 0, 0x00A)] := by decide +kernel

/-- V-KEY-13. -/
theorem test_keyclear :
    let t := after .keyclear (keyed 0xC 0 0 0 0 0)
    result t = (0x00, 0, 0x002) ∧ t.keys = bytes 64 0 := by decide +kernel

/-- V-AES-1. -/
theorem test_aesEnc :
    let t := after .aesEnc ((keyed 0xC 0 11 0x100 0 0).memWrite 0 vecHello)
    result t = (0x00, 16, 0x00A) ∧ beNat (t.memRead 0x100 16) = vecCtValue ∧ t.memRead 0 11 = vecHello := by decide +kernel

/-- The clauses of AES_ENC: V-AES-9, V-AES-8, V-AES-6, V-AES-5, V-AES-10 and V-AES-7. -/
theorem witness_AesEncEncrypts :
    [keyed 0xC 0xFFFFFFF0 0x20 0 0 0, keyed 0xC 4090 6 4081 0 0, keyed 0xC 0 11 0 0 0, keyless 0xC 0 11 0x100 0 0,
      keyed 0xC 4096 0 0 0 0, keyed 0xC 0 11 11 0 0].map (fun s => result (after .aesEnc s)) =
    [(0x03, 0, 0x00E), (0x03, 0, 0x00E), (0x04, 0, 0x00E), (0x05, 0, 0x006), (0x00, 16, 0x00A), (0x00, 16, 0x00A)] := by
  decide +kernel

/-- V-AES-11: the pad bytes of the region keep 0xAA. -/
theorem test_aesDec :
    let t := after .aesDec (((keyed 0xC 0 16 0x100 0 0).memWrite 0x100 (bytes 16 0xAA)).memWrite 0 (bytesBE 16 vecCtValue))
    result t = (0x00, 11, 0x00A) ∧ t.memRead 0x100 16 = vecHello ++ bytes 5 0xAA := by decide +kernel

/-- The clauses of AES_DEC: V-AES-15, V-AES-13, V-AES-14 and V-AES-16, an output past the end, V-AES-18, no keys, and
V-AES-17, whose region is zero-filled. -/
theorem witness_AesDecDecrypts :
    [keyed 0xC 4090 17 0 0 0, keyed 0xC 0 0 0 0 0, keyed 0xC 0 17 0x100 0 0, keyless 0xC 0 17 0x100 0 0,
      keyed 0xC 0 16 4081 0 0, keyed 0xC 0 16 8 0 0, keyless 0xC 0 16 16 0 0].map (fun s => result (after .aesDec s)) =
    [(0x03, 0, 0x00E), (0x11, 0, 0x00E), (0x11, 0, 0x00E), (0x11, 0, 0x006), (0x03, 0, 0x00E), (0x04, 0, 0x00E),
      (0x05, 0, 0x006)] ∧
    (let t := after .aesDec ((keyed 0xC 0 16 0x100 0 0).memWrite 0x100 (bytes 16 0xAA))
     result t = (0x13, 0, 0x00E) ∧ t.memRead 0x100 16 = bytes 16 0) := by
  decide +kernel

/-- V-MAC-3: T = 16 writes 16 bytes and no more. -/
theorem test_macGen :
    let t := after .macGen (((keyed 0xE 0 11 0x100 0 0).memWrite 0x100 (bytes 17 0xAA)).memWrite 0 vecHello)
    result t = (0x00, 16, 0x00A) ∧ beNat (t.memRead 0x100 17) = 0x888e94b22c291e7463fe7134fed82b0daa := by decide +kernel

/-- The clauses of MAC_GEN: a message past the end, V-MAC-6, V-MAC-5, V-MAC-7, and V-MAC-4's touching tag. -/
theorem witness_MacGenWritesTheTag :
    [keyed 0xC 4096 1 0 0 0, keyed 0xC 0 16 4065 0 0, keyed 0xC 0 53 52 0 0, keyless 0xC 0 16 0x100 0 0,
      keyed 0xC 0 53 53 0 0].map (fun s => result (after .macGen s)) =
    [(0x03, 0, 0x00E), (0x03, 0, 0x00E), (0x04, 0, 0x00E), (0x05, 0, 0x006), (0x00, 32, 0x00A)] := by decide +kernel

/-- V-MAC-8 and V-MAC-9: the tag of P1's prefix, and the same with one bit flipped. -/
theorem test_macVerify :
    result (after .macVerify ((keyed 0xC 0 53 0 0 53).memWrite 0 vecP1)) = (0x00, 0, 0x00A) ∧
    result (after .macVerify (((keyed 0xC 0 53 0 0 53).memWrite 0 vecP1).memWrite 37 [0x36])) = (0x12, 0, 0x00E) := by
  decide +kernel

/-- The other clauses of MAC_VERIFY: a message past the end, V-MAC-13, V-MAC-14. -/
theorem witness_MacVerifyComparesTheTag :
    [keyed 0xC 4096 1 0 0 0, keyed 0xC 0 53 0 0 4080, keyless 0xC 0 53 0 0 53].map (fun s => result (after .macVerify s)) =
    [(0x03, 0, 0x00E), (0x03, 0, 0x00E), (0x05, 0, 0x006)] := by decide +kernel

/-- V-PKT-1. -/
theorem test_pktEncode :
    let t := after .pktEncode ((((keyless 0xC 0 16 0x100 0x40 0x80).memWrite 0 (bytesBE 16 vecCtValue)).memWrite 0x40
      vecPub).memWrite 0x80 (bytesBE 32 vecTagValue))
    result t = (0x00, 85, 0x002) ∧ t.memRead 0x100 85 = vecP1 := by decide +kernel

/-- The clauses of PKT_ENCODE: each input past the end (V-PKT-5 the tag), the output past the end, each overlap (V-PKT-4
the tag), and V-PKT-3. -/
theorem witness_PktEncodeWritesThePacket :
    [keyless 0xC 4096 1 0x100 0x40 0x80, keyless 0xC 0 16 0x100 4064 0x80, keyless 0xC 0 16 0x100 0x40 4080,
      keyless 0xC 0 16 4012 0x40 0x80, keyless 0xC 0 16 15 0x200 0x280, keyless 0xC 0 16 0x100 0x120 0x80,
      keyless 0xC 0 16 0x100 0x40 0x120, keyless 0xC 0 0 0x100 0x40 0x80].map (fun s => result (after .pktEncode s)) =
    [(0x03, 0, 0x006), (0x03, 0, 0x006), (0x03, 0, 0x006), (0x03, 0, 0x006), (0x04, 0, 0x006), (0x04, 0, 0x006),
      (0x04, 0, 0x006), (0x00, 69, 0x002)] := by decide +kernel

/-- V-PKT-6 and V-PKT-7: P1 with T = 32 and with T = 16. -/
theorem test_pktDecode :
    result (after .pktDecode ((keyless 0xC 0 85 0 0 0).memWrite 0 vecP1)) = (0x00, 16, 0x002) ∧
    result (after .pktDecode ((keyless 0xE 0 85 0 0 0).memWrite 0 vecP1)) = (0x00, 32, 0x002) := by decide +kernel

/-- The clauses of PKT_DECODE: V-PKT-16, V-PKT-10, V-PKT-15, V-PKT-12 and V-PKT-13. -/
theorem witness_PktDecodeChecksThePacket :
    [keyless 0xC 4000 100 0 0 0, (keyless 0xE 0 68 0 0 0).memWrite 0 vecP1,
      ((keyless 0xC 0 70 0 0 0).memWrite 0 vecP1).memWrite 0 [0x43], (keyless 0xC 0 69 0 0 0).memWrite 0 vecP1,
      (keyless 0xC 0 70 0 0 0).memWrite 0 vecP1].map (fun s => result (after .pktDecode s)) =
    [(0x03, 0, 0x006), (0x10, 0, 0x006), (0x10, 0, 0x006), (0x11, 0, 0x006), (0x11, 0, 0x006)] := by decide +kernel

/-- The start state of V-SEAL-1. -/
def sealStart (c : BitVec 4) : State := ((keyed c 0 11 0x100 0x40 0).memWrite 0 vecHello).memWrite 0x40 vecPub

/-- V-SEAL-1, and V-SEAL-6's first command, which keeps the keys. -/
theorem test_seal :
    let t := after .sealPkt (sealStart 0xC)
    result t = (0x00, 85, 0x002) ∧ t.memRead 0x100 85 = vecP1 ∧ t.keys = bytes 64 0 ∧
      result (after .sealPkt (sealStart 0x8)) = (0x00, 85, 0x00A) := by decide +kernel

/-- The clauses of SEAL: a plaintext past the end, V-SEAL-8, V-SEAL-9, V-SEAL-7, an output over the public key, V-SEAL-10. -/
theorem witness_SealWritesThePacket :
    [keyed 0xC 4096 1 0x100 0x40 0, keyed 0xC 0 11 0x100 4064 0, keyed 0xC 0 11 4012 0x40 0, keyed 0xC 0 11 8 0x40 0,
      keyed 0xC 0 11 0x100 0x154 0, keyless 0xC 0 11 0x100 0x40 0].map (fun s => result (after .sealPkt s)) =
    [(0x03, 0, 0x006), (0x03, 0, 0x006), (0x03, 0, 0x006), (0x04, 0, 0x006), (0x04, 0, 0x006), (0x05, 0, 0x006)] := by
  decide +kernel

/-- V-OPEN-1: the pad bytes of the region keep 0xAA, and the keys are cleared. -/
theorem test_open :
    let t := after .openPkt (((keyed 0xC 0 85 0x100 0 0).memWrite 0x100 (bytes 16 0xAA)).memWrite 0 vecP1)
    result t = (0x00, 11, 0x002) ∧ t.memRead 0x100 16 = vecHello ++ bytes 5 0xAA ∧ t.keys = bytes 64 0 := by decide +kernel

/-- The clauses of OPEN: out of bounds, V-OPEN-9, a bad flag, V-OPEN-16, V-OPEN-13, V-OPEN-11, V-OPEN-10, then V-OPEN-3,
V-OPEN-5 and V-OPEN-6. -/
theorem witness_OpenAuthenticatesThenDecrypts :
    [keyed 0xC 4012 85 0 0 0, keyless 0xC 0 60 0x100 0 0, keyed 0xC 0 85 0x100 0 0,
      (keyed 0xC 0 86 0x100 0 0).memWrite 0 vecP1, (keyed 0xC 0 85 4081 0 0).memWrite 0 vecP1,
      (keyed 0xC 0 85 0x50 0 0).memWrite 0 vecP1, (keyless 0xC 0 85 0x100 0 0).memWrite 0 vecP1,
      ((keyed 0xC 0 85 0x100 0 0).memWrite 0 vecP1).memWrite 84 [0x9b], (keyed 0xC 0 85 0x100 0 0).memWrite 0 vecPB,
      (keyed 0x4 0 85 0x100 0 0).memWrite 0 vecPB].map (fun s => result (after .openPkt s)) =
    [(0x03, 0, 0x006), (0x10, 0, 0x006), (0x10, 0, 0x006), (0x11, 0, 0x006), (0x03, 0, 0x006), (0x04, 0, 0x006),
      (0x05, 0, 0x006), (0x12, 0, 0x006), (0x12, 0, 0x006), (0x13, 0, 0x006)] := by decide +kernel

/-! ### The host's side -/

/-- V-BUS-1: ID, VERSION, CAP, CTRL and STATUS after reset. -/
theorem test_registers_after_reset :
    [0x000, 0x004, 0x008, 0x00C, 0x010].map State.reset.readReg =
      [0x42494531, 0x00000001, 0x0000010C, 0x0000000C, 0x00000000] := by decide +kernel

/-- V-BUS-2: little-endian lanes. -/
theorem test_lanes :
    let t := State.reset.transact ⟨0x10000, .word, .write 0x31454942⟩
    t.memRead 0 4 = [0x42, 0x49, 0x45, 0x31] ∧
      [(t.hostStep ⟨0x10001, .byte, .read⟩).1.rdata, (t.hostStep ⟨0x10002, .half, .read⟩).1.rdata,
        (t.hostStep ⟨0x10000, .word, .read⟩).1.rdata] = [some 0x49, some 0x3145, some 0x31454942] := by decide +kernel

/-- V-BUS-8: STATUS = 0x302, then three W1C writes. -/
theorem test_w1c :
    let s := { State.reset with done := true, accErr := true, cmdRej := true }
    let t := s.writeReg 0x010 0x100
    let u := t.writeReg 0x010 0x0000000D
    [s.status, t.status, u.status, (u.writeReg 0x010 0x302).status] = [0x302, 0x202, 0x202, 0x000] := by decide +kernel

/-- V-BUS-9 and V-BUS-10: while AES_ENC is in flight every write is dropped, and it ends in ERR_OVERLAP. -/
theorem test_busy_refusals :
    let s := ({ State.reset with srcLen := 7 } : State).accept 0x10
    let t := s.afterTxns [⟨0x24, .word, .write 33⟩, ⟨0x10000, .word, .read⟩, ⟨0x10000, .byte, .write 0x55⟩,
      ⟨0x0C, .word, .write 0⟩, ⟨0x14, .word, .write 0⟩]
    s.status = 0x001 ∧ t.status = 0x301 ∧ t.srcLen = 7 ∧ t.ctrl = 0xC ∧ t.cmd = 0x10 ∧ t.memRead 0 1 = [0] ∧
      result (stepped t) = (0x04, 0, 0x306) := by decide +kernel

/-- V-ILL-80000040 from a state with keys: the word is kept, the keys too, though AUTOCLR = 1. -/
theorem test_illegal_word :
    let t := stepped ((keyed 0xC 0 0 0 0 0).withFetchWord 32 0x80000040)
    result t = (0x01, 0, 0x00E) ∧ t.cmd = 0x80000040 ∧ t.keys = vecK1 := by decide +kernel

/-- V-IRQ-1: `irq` after CTRL, while BUSY, after completion and after the W1C. -/
theorem test_irq :
    let s := State.reset.writeReg 0x00C 0x0D
    let t := s.writeReg 0x014 0
    let u := stepped t
    [s.irq, t.irq, u.irq, (u.writeReg 0x010 2).irq] = [false, false, true, false] := by decide +kernel

/-- V-RST-2: reset while AES_ENC is in flight; the buffer is whatever was drawn. -/
theorem test_reset_while_busy :
    let s := { (keyed 0xC 0 11 0x100 0 0).accept 0x10 with sched := [.reset [(0x105, 0x77), (5000, 0x11)]] }
    let t := stepped s
    s.status = 0x009 ∧ result t = (0x00, 0, 0x000) ∧ t.keys = bytes 64 0 ∧ t.srcLen = 0 ∧ t.buf = [(0x105, 0x77)] := by
  decide +kernel

/-- Program 1, lines 1 and 9: the first and the last transaction of `LOAD 0x000, S`, of nine. -/
theorem test_load :
    let l := (hostLoad 0 vecS).filterMap HostStmt.transaction
    l.length = 9 ∧ l[0]? = some ⟨0x10000, .word, .write 0x95C31C03⟩ ∧
      l[8]? = some ⟨0x10020, .byte, .write 0x0000004A⟩ := by decide +kernel

/-- The host's place after one statement; none if the program has stopped or the statement faults. -/
def hostAfter (prog : List HostStmt) (h : HostRun) (s : State) : Option HostRun :=
  match hostStatement prog h s with
  | some (.next (h, _)) => some h
  | some (.fault _) | some (.refused _) | none => none

/-- R120: WAIT goes back while STATUS bit 0 is 1 and goes on when it is 0, and EXPECT leaves for its label on another value. -/
theorem test_wait :
    hostAfter (hostWait 7 0) ⟨2, [(0, 0x009)]⟩ State.reset = some ⟨0, [(0, 0x009)]⟩ ∧
    hostAfter (hostWait 7 0) ⟨2, [(0, 0x002)]⟩ State.reset = some ⟨3, [(0, 0x002)]⟩ ∧
    hostAfter (hostWait 7 0) ⟨1, []⟩ (State.reset.accept 0) = some ⟨2, [(0, 0x001)]⟩ := by decide +kernel

/-- R80: `W(0xFFFC)` is the last word of the window, and `W(0x1000C)` is no offset of the block. -/
theorem test_window_operand :
    hostAfter [.write (.win 0xFFFC) .word 3] ⟨0, []⟩ State.reset = some ⟨1, []⟩ ∧
    (match hostStatement [.write (.win 0x1000C) .word 3] ⟨0, []⟩ State.reset with
      | some (.fault .addressNotDecoded) => true
      | _ => false) = true ∧
    (HostStmt.write (.win 0x1000C) .word 3).transaction = none := by decide +kernel

/-- Program 2, lines 2 to 65 with each STATUS poll once: 58 transactions, lines 32 to 40 the reads of the sender key. -/
theorem test_decryptFlow :
    let l := (hostDecryptFlow vecP1 vecS 0x200 0x300 0x400).filterMap HostStmt.transaction
    l.length = 58 ∧ ((l.drop 27).take 11).map (fun t => (t.off.toNat, t.size)) =
      [(0x0001C, .word), (0x10204, .word), (0x10208, .word), (0x1020C, .word), (0x10210, .word), (0x10214, .word),
        (0x10218, .word), (0x1021C, .word), (0x10220, .word), (0x10224, .byte), (0x10300, .word)] := by decide +kernel

/-- R384: boot reads ID, VERSION and CAP, then writes CTRL and STATUS. -/
theorem test_boot :
    ((hostBoot 0xE).filterMap HostStmt.transaction).map (fun t => (t.off.toNat, t.access)) =
      [(0x000, .read), (0x004, .read), (0x008, .read), (0x00C, .write 0xE), (0x010, .write 0x302)] := by decide +kernel

/-! ### States that meet the hypotheses of the statements -/

theorem witness_IllegalWordCompletesWithItsCode :
    let s := { keyed 0xC 0 0 0 0 0 with sched := [.bus 0x14 .word (.write 0x80000040), .engine] }
    s.busy = false ∧ (0x80000040 : Word).toNat / 2 ^ 16 ≠ 0 ∧
      s.sched = .bus (s.pBase + 0x14) .word (.write 0x80000040) :: .engine :: [] := by decide +kernel

theorem witness_StepRunsDecodedCommand :
    let s := State.reset.accept 0x10
    s.busy = true ∧ s.engineTurn [] ∧ decode s.cmd = .ok .aesEnc := by decide +kernel

theorem witness_IssuedCommandRuns :
    let s := { State.reset with sched := [.bus 0x14 .word (.write (encode .keyclear)), .engine, .engine] }
    s.busy = false ∧ s.sched = .bus (s.pBase + 0x14) .word (.write (encode .keyclear)) :: .engine :: [.engine] := by
  decide +kernel

theorem witness_EngineTurnWhileIdleChangesNothing :
    let s := { State.reset with sched := [.engine, .engine] }
    s.busy = false ∧ s.engineTurn [.engine] := by decide +kernel

/-- The first and the last address of the window, and the first above it, at `P_BASE` = 0x20000. -/
theorem witness_MachineStopsOnlyOutsideItsWindow :
    let s (a : Nat) : State :=
      { State.reset with cfg := { sizeStep := 4, baseIndex := 1 }, sched := [.bus a .word .read] }
    (match step (s 0x20000), step (s 0x3FFFC), step (s 0x40000), step (s 0x1FFFC) with
      | .next _, .next _, .fault _, .fault _ => true
      | _, _, _, _ => false) = true := by decide +kernel

theorem witness_EngineTurnCompletesAnyWord :
    let s := { State.reset.accept 0xFF with sched := [.engine] }
    s.busy = true ∧ s.engineTurn [] := by decide +kernel

/-- The last defined offset, the first and the last reserved one. -/
theorem witness_RegisterReads :
    [0x030, 0x034, 0xFFFC].map (fun o => ((keyed 0xC 1 2 3 4 5).hostStep ⟨BitVec.ofNat 17 o, .word, .read⟩).1) =
      [⟨.okay, some 5⟩, ⟨.okay, some 0⟩, ⟨.okay, some 0⟩] := by decide +kernel

theorem witness_RegisterWrites :
    let s := State.reset
    s.busy = false ∧ (0x14 : Nat) < 0x10000 ∧ 0x14 % 4 = 0 ∧ (s.writeReg 0x14 7).busy = true ∧
      ((s.accept 7).writeReg 0x24 9).srcLen = 0 ∧ (s.writeReg 0x24 9).srcLen = 9 ∧ s.writeReg 0x34 9 = s := by decide +kernel

/-- V-BUS-3 and V-BUS-4, and an aligned access beside each. -/
theorem witness_BusErrorsChangeNothing :
    [(⟨0x002, .word, .read⟩ : Txn), ⟨0x00C, .half, .write 0⟩, ⟨0x00C, .byte, .read⟩, ⟨0x10001, .word, .read⟩,
      ⟨0x10003, .half, .read⟩, ⟨0x10002, .word, .write 0⟩, ⟨0x0FFFC, .word, .read⟩, ⟨0x10001, .byte, .read⟩].map
        (fun t => (State.reset.hostStep t).1.code) =
    [.slverr, .slverr, .slverr, .slverr, .slverr, .slverr, .okay, .okay] := by decide +kernel

/-- The last word of a 4096-byte buffer, and V-BUS-5's first word beyond it. -/
theorem witness_WindowMapping :
    (0x10FFC : BitVec 17).toNat % Size.word.toNat = 0 ∧ 0x10FFC - 0x10000 < State.reset.bufBytes ∧
    State.reset.bufBytes ≤ (0x11000 : BitVec 17).toNat - 0x10000 ∧
    (State.reset.hostStep ⟨0x11000, .word, .read⟩).1 = ⟨.okay, some 0⟩ := by decide +kernel

theorem witness_BufferLanes :
    State.reset.busy = false ∧ Memory.wf State.reset.buf = true ∧
      4092 + Size.word.toNat ≤ State.reset.bufBytes ∧ 4092 % Size.word.toNat = 0 ∧
      4095 + Size.byte.toNat ≤ State.reset.bufBytes ∧ 4095 % Size.byte.toNat = 0 := by decide +kernel

/-- Serves the statements about a BUSY state. -/
theorem witness_BusyBufferAccessIsRefused :
    let s := State.reset.accept 0
    s.busy = true ∧ 4094 + Size.half.toNat ≤ s.bufBytes ∧ 4094 % Size.half.toNat = 0 := by decide +kernel

theorem witness_BusyTransactionKeepsTheCommand : (State.reset.accept 0x10).busy = true := by decide +kernel

theorem witness_HostTrafficCannotRaceACommand :
    let s := { keyed 0xC 0 11 0x100 0 0 with cmd := 0x10, busy := true }
    s.busy = true ∧ (s.afterTxns [⟨0x24, .word, .write 33⟩]).accErr = true := by decide +kernel

theorem witness_KeysHiddenFromTheBus :
    (keyed 0xC 0 0 0 0 0).sameButKeys { keyed 0xC 0 0 0 0 0 with keys := bytes 64 1 } ∧
      (keyed 0xC 0 0 0 0 0).keys ≠ bytes 64 1 := by decide +kernel

theorem witness_HostLoadStoresTheBytes :
    State.reset.busy = false ∧ Memory.wf State.reset.buf = true ∧ State.reset.fits 4063 vecS.length := by decide +kernel

theorem witness_InterruptLine :
    let s := { State.reset with ctrl := 0xD, done := true }
    s.irq = true ∧ (after .nop { s with done := false }).irq = true ∧ (0x2 : Word).getLsbD 1 = true := by decide +kernel

theorem witness_AcknowledgeKeepsTheResult :
    (0x2 : Word).getLsbD 1 = true ∧ (0x2 : Word).getLsbD 8 = false ∧ (0x2 : Word).getLsbD 9 = false := by decide

theorem witness_RefusalFlagsAreSticky :
    let s := { State.reset with accErr := true, cmdRej := true, sched := [.bus 0x10 .word (.write 0x100)] }
    (stepped s).accErr = false ∧ (stepped s).cmdRej = true := by decide +kernel

theorem witness_ResetValues :
    let s := { (keyed 0xF 1 2 3 4 5).accept 0x41 with sched := [.reset [(0, 1)]] }
    s.sched = .reset [(0, 1)] :: [] ∧ step s = .next (stepped s) :=
  ⟨rfl, rfl⟩

theorem witness_ResetCanDrawAnyBuffer :
    let m : Memory := [(0, 1), (4095, 0xFF)]
    let s := { State.reset with sched := [.reset m] }
    m.wf = true ∧ Memory.below s.bufBytes m = true ∧ s.sched = .reset m :: [] ∧ (stepped s).buf = m := by decide +kernel

/-- A state with keys, a command in flight and bytes in its buffer meets the invariant. -/
theorem witness_EveryStepKeepsTheInvariant :
    let s := ((sealStart 0xC).accept 0x40)
    s.Inv ∧ step s = .next (stepped s) := by
  refine ⟨by decide +kernel, rfl⟩

theorem witness_KeyRegisterWriters :
    let s := (keyed 0x8 0 0 0 0 0).accept 3
    step s = .next (stepped s) ∧ (stepped s).keyValid ≠ s.keyValid := ⟨rfl, by decide +kernel⟩

theorem witness_NoKeyNoResult :
    readsKeys .macVerify = true ∧ (keyless 0xC 0 53 0 0 53).keyValid = false := by decide +kernel

theorem witness_EarlyErrorsWriteNothing :
    (after (.kdf true) (keyless 0xC 0 33 0x20 0 0)).errCode ∈
      [.inputLen, .bounds, .malformedPacket, .ctLength, .overlap, ErrCode.noKey] := by decide +kernel

theorem witness_SboxIsInverseThenAffine : gfMul 0x53 0xca = 0x01 := by decide +kernel

theorem witness_AesDecryptsWhatItEncrypts : (bytes 16 0x5a).length = 16 := by decide

theorem witness_CbcDecryptsWhatItEncrypts : (bytes 16 0x5a).length = 16 ∧ (bytes 32 0xa5).length % 16 = 0 := by decide

theorem witness_PaddingCheckIsExact :
    0 < (bytes 16 0x10).length ∧ (bytes 16 0x10).length % 16 = 0 ∧ pkcs7Check (bytes 16 0x10) = some 16 ∧
      pkcs7Check (bytes 16 0x11) = none := by decide +kernel

theorem witness_TagComparisonIsEquality :
    (bytes 16 1).length = (bytes 16 2).length ∧ ctEq (bytes 16 1) (bytes 16 2) = false := by decide +kernel

theorem witness_EqualContentsAreEqualData :
    Memory.wf (Memory.writeByte [] 3 7) = true ∧ Memory.wf (Memory.writeByte (Memory.writeByte [] 3 1) 3 7) = true ∧
      Memory.writeByte [] 3 7 = Memory.writeByte (Memory.writeByte [] 3 1) 3 7 := by decide +kernel

theorem witness_OpenFailsClosed :
    let s := (keyed 0x4 0 85 0x100 0 0).memWrite 0 vecPB
    Memory.wf s.buf = true ∧ (after .openPkt s).errCode = .padding := by decide +kernel

/-- V-OPEN-5: with UNIFY = 1 and a packet whose padding is bad. -/
theorem witness_UnifyHidesOnlyThePaddingCode :
    let s := (keyed 0xC 0 85 0x100 0 0).memWrite 0 vecPB
    s.ctrl.getLsbD 3 = true ∧ (after .openPkt s).errCode = .auth ∧
      (after .openPkt { s with ctrl := s.ctrl &&& 0b0111 }).errCode = .padding := by decide +kernel

theorem witness_ExportedKeysLoadBack :
    let s := (keyless 0xC 0 33 0x21 0 0).memWrite 0 vecS
    Memory.wf s.buf = true ∧ (after (.kdf true) s).errCode = .ok := by decide +kernel

theorem witness_EncodedPacketDecodes :
    let s := (keyless 0xC 0 16 0x100 0x40 0x80).memWrite 0 (bytesBE 16 vecCtValue)
    Memory.wf s.buf = true ∧ (after .pktEncode s).errCode = .ok ∧ s.srcLen ≠ 0 ∧ s.srcLen.toNat % 16 = 0 := by
  decide +kernel

theorem witness_OpenReturnsWhatSealSealed :
    let s := sealStart 0xC
    let t := after .sealPkt s
    Memory.wf s.buf = true ∧ s.keys.length = 64 ∧ t.errCode = .ok ∧
      s.fits (0x155 : Word).toNat (16 * (s.srcLen.toNat / 16 + 1)) ∧
      ¬ meets (0x155 : Word).toNat (16 * (s.srcLen.toNat / 16 + 1)) s.dstAddr.toNat t.outLen.toNat := by decide +kernel

theorem witness_TamperedTagIsRefused :
    let s := sealStart 0xC
    let t := after .sealPkt s
    let m := t.buf.writeByte (0x100 + 84) 0x9b
    Memory.wf s.buf = true ∧ t.errCode = .ok ∧ Memory.wf m = true ∧ m ≠ t.buf ∧ 0x100 + 37 + 16 ≤ 0x100 + 84 ∧
      0x100 + 84 < 0x100 + 37 + 16 + s.t ∧ s.fits (0x155 : Word).toNat 16 ∧
      ¬ meets (0x155 : Word).toNat 16 s.dstAddr.toNat t.outLen.toNat := by
  decide +kernel

end Sys2Proof.Tests
end

section
/-! PROOFS. The step and its two agents (00_scope.md R12, R13): what each scheduled move does to a step, that the Engine's
turn completes whatever word is in flight, and the settled statements of spec/00_scope.md. -/

namespace Sys2Proof.Machine

/-! ### The step by the next scheduled move -/

/-- On the Engine's turn the step is the Engine's step (R12, R151). -/
theorem step_of_engineTurn {s : State} {rest : List Event} (h : s.engineTurn rest) :
    step s = { s with sched := rest }.engineStep := by
  obtain hs | ⟨hs, rfl⟩ := h
  · simp [step, State.advance, State.move, hs]
  · have hsame : { s with sched := [] } = s := by rw [← hs]
    simp [step, State.advance, hs, hsame]

/-- When a bus transaction is next, the step is that transaction. -/
theorem step_of_bus {s : State} {addr : Nat} {size : Size} {access : Access} {rest : List Event}
    (h : s.sched = .bus addr size access :: rest) :
    step s = { s with sched := rest }.busStep addr size access := by
  simp [step, State.advance, State.move, h]

/-- When a reset is next, the step is the reset. -/
theorem step_of_reset {s : State} {cells : List Host.Cell} {rest : List Event} (h : s.sched = .reset cells :: rest) :
    step s = .next ({ s with sched := rest }.resetWith cells) := by
  simp [step, State.advance, State.move, h]

/-! ### The Engine's step by the word in flight -/

theorem engineStep_of_idle {s : State} (h : s.busy = false) : s.engineStep = .next s := by
  simp [State.engineStep, h]

theorem engineStep_of_decode_ok {s : State} {i : Instr} (hb : s.busy = true) (hd : decode s.cmd = .ok i) :
    s.engineStep = exec i s := by
  simp [State.engineStep, hb, hd]

theorem engineStep_of_decode_error {s : State} {r : IllegalCmd} (hb : s.busy = true) (hd : decode s.cmd = .error r) :
    s.engineStep = .next (s.raiseErr .illegalCmd) := by
  simp [State.engineStep, hb, hd]

/-- The round trip on the words the Host writes for commands (R112). -/
theorem decode_encode (i : Instr) : decode (encode i) = .ok i := by
  cases i with
  | kdf x => cases x <;> rfl
  | _ => rfl

/-- Placing a word makes the next turn the Engine's, with the schedule as it was to follow. -/
theorem placeCommand_engineTurn (s : State) (w : Word) : (s.placeCommand w).engineTurn s.sched := by
  unfold State.placeCommand
  cases hs : s.sched with
  | nil => exact .inr ⟨rfl, rfl⟩
  | cons e es => exact .inl rfl

/-- The bits of a 32-bit word, placed as a number, are the word (R150). -/
theorem withFetchWord_toNat (s : State) (w : Word) : s.withFetchWord 32 w.toNat = s.placeCommand w := by
  rw [State.withFetchWord, Nat.mod_eq_of_lt w.isLt, BitVec.ofNat_toNat, BitVec.setWidth_eq]

/-! ### Completion: what any command may change -/

/-- `t` is `s` with its command completed (R151, R340): BUSY dropped, DONE risen, OUT_LEN 0 after an error, and nothing but
ERRCODE, OUT_LEN, the key registers and the buffer changed besides. -/
structure State.CompletesTo (s t : State) : Prop where
  outLen_of_error : t.errCode ≠ .ok → t.outLen = 0
  frame : t = { s with
    busy := false, done := true, errCode := t.errCode, outLen := t.outLen, keys := t.keys
    keyValid := t.keyValid, buf := t.buf }

theorem raiseErr_completesTo (s : State) (e : ErrCode) : s.CompletesTo (s.raiseErr e) :=
  ⟨fun _ => raiseErr_outLen s e, rfl⟩

theorem complete_completesTo (s : State) (n : Nat) : s.CompletesTo (s.complete n) :=
  ⟨fun h => absurd rfl h, rfl⟩

/-- A buffer write before the completion is within what a command may change. -/
theorem State.CompletesTo.of_memWrite {s t : State} {a : Nat} {v : List Byte} (h : (s.memWrite a v).CompletesTo t) :
    s.CompletesTo t :=
  ⟨h.outLen_of_error, h.frame⟩

/-- A key load before the completion is within what a command may change. -/
theorem State.CompletesTo.of_keyLoad {s t : State} {k : List Byte} (h : (s.keyLoad k).CompletesTo t) :
    s.CompletesTo t :=
  ⟨h.outLen_of_error, h.frame⟩

/-- A key clear before the completion is within what a command may change. -/
theorem State.CompletesTo.of_keyClear {s t : State} (h : s.keyClear.CompletesTo t) : s.CompletesTo t :=
  ⟨h.outLen_of_error, h.frame⟩

/-- AUTOCLR after the completion touches the key registers only (R151 step 4). -/
theorem State.CompletesTo.autoClear {s t : State} (h : s.CompletesTo t) : s.CompletesTo t.autoClear := by
  unfold State.autoClear
  split
  · exact ⟨h.outLen_of_error, congrArg State.keyClear h.frame⟩
  · exact h

theorem failClosed_completesTo (s : State) (out : Region) (e : ErrCode) : s.CompletesTo (s.failClosed out e) :=
  (raiseErr_completesTo _ e).of_memWrite

theorem unpadTo_completesTo (s : State) (out : Region) (d : List Byte) (bad : ErrCode) :
    s.CompletesTo (s.unpadTo out d bad) := by
  obtain ⟨-, h⟩ | ⟨p, -, h⟩ := unpadTo_cases s out d bad
  · exact h ▸ failClosed_completesTo s out bad
  · exact h ▸ (complete_completesTo _ _).of_memWrite

theorem sealBody_completesTo (s : State) : s.CompletesTo (sealBody s) := by
  obtain ⟨e, -, h⟩ | ⟨-, h⟩ := sealBody_cases s
  · exact h ▸ raiseErr_completesTo s e
  · exact h ▸ (complete_completesTo _ _).of_memWrite

theorem openBody_completesTo (s : State) : s.CompletesTo (openBody s) := by
  obtain ⟨e, -, h⟩ | ⟨-, h | h⟩ := openBody_cases s
  · exact h ▸ raiseErr_completesTo s e
  · exact h ▸ failClosed_completesTo s _ _
  · exact h ▸ unpadTo_completesTo s _ _ _

/-- Every command completes: its checks end in an error, or its body writes keys or buffer and then completes (R151). -/
theorem exec_completesTo (i : Instr) (s : State) : ∃ t, exec i s = .next t ∧ s.CompletesTo t := by
  cases i with
  | nop => exact ⟨_, rfl, complete_completesTo s 0⟩
  | kdf x =>
    obtain ⟨e, -, h⟩ | ⟨-, h⟩ := execKdf_cases x s
    · exact ⟨_, h, raiseErr_completesTo s e⟩
    · cases x with
      | false => exact ⟨_, h, (complete_completesTo _ _).of_keyLoad⟩
      | true => exact ⟨_, h, (complete_completesTo _ _).of_memWrite.of_keyLoad⟩
  | keyload =>
    obtain ⟨e, -, h⟩ | ⟨-, h⟩ := execKeyload_cases s
    · exact ⟨_, h, raiseErr_completesTo s e⟩
    · exact ⟨_, h, (complete_completesTo _ _).of_keyLoad⟩
  | keyclear => exact ⟨_, rfl, (complete_completesTo _ 0).of_keyClear⟩
  | aesEnc =>
    obtain ⟨e, -, h⟩ | ⟨-, h⟩ := execAesEnc_cases s
    · exact ⟨_, h, raiseErr_completesTo s e⟩
    · exact ⟨_, h, (complete_completesTo _ _).of_memWrite⟩
  | aesDec =>
    obtain ⟨e, -, h⟩ | ⟨-, h⟩ := execAesDec_cases s
    · exact ⟨_, h, raiseErr_completesTo s e⟩
    · exact ⟨_, h, unpadTo_completesTo s _ _ _⟩
  | macGen =>
    obtain ⟨e, -, h⟩ | ⟨-, h⟩ := execMacGen_cases s
    · exact ⟨_, h, raiseErr_completesTo s e⟩
    · exact ⟨_, h, (complete_completesTo _ _).of_memWrite⟩
  | macVerify =>
    obtain ⟨e, -, h⟩ | ⟨-, h | h⟩ := execMacVerify_cases s
    · exact ⟨_, h, raiseErr_completesTo s e⟩
    · exact ⟨_, h, complete_completesTo s 0⟩
    · exact ⟨_, h, raiseErr_completesTo s .auth⟩
  | pktEncode =>
    obtain ⟨e, -, h⟩ | ⟨-, h⟩ := execPktEncode_cases s
    · exact ⟨_, h, raiseErr_completesTo s e⟩
    · exact ⟨_, h, (complete_completesTo _ _).of_memWrite⟩
  | pktDecode =>
    obtain ⟨e, -, h⟩ | ⟨-, h⟩ := execPktDecode_cases s
    · exact ⟨_, h, raiseErr_completesTo s e⟩
    · exact ⟨_, h, complete_completesTo s _⟩
  | sealPkt => exact ⟨_, rfl, (sealBody_completesTo s).autoClear⟩
  | openPkt => exact ⟨_, rfl, (openBody_completesTo s).autoClear⟩

/-- The Engine's step completes the word in flight, legal or not (R113, R151). -/
theorem engineStep_completesTo {s : State} (hb : s.busy = true) : ∃ t, s.engineStep = .next t ∧ s.CompletesTo t := by
  cases hd : decode s.cmd with
  | error r => exact ⟨_, engineStep_of_decode_error hb hd, raiseErr_completesTo s .illegalCmd⟩
  | ok i => exact engineStep_of_decode_ok hb hd ▸ exec_completesTo i s

/-- The Engine never stops the machine, in either phase (R13). -/
theorem engineStep_next (s : State) : ∃ t, s.engineStep = .next t := by
  cases hb : s.busy with
  | false => exact ⟨s, engineStep_of_idle hb⟩
  | true =>
    obtain ⟨t, ht, -⟩ := engineStep_completesTo hb
    exact ⟨t, ht⟩

/-! ### The machine's one stop (R80, R88) -/

/-- The host address lies outside the 128 KiB window at `P_BASE`. -/
def State.outsideWindow (s : State) (addr : Nat) : Prop := addr < s.pBase ∨ s.pBase + 0x20000 ≤ addr

/-- The next move is a bus transaction outside the window. -/
def State.straysNext (s : State) : Prop :=
  ∃ addr size access rest, s.sched = .bus addr size access :: rest ∧ s.outsideWindow addr

theorem busStep_of_outside {s : State} {addr : Nat} (size : Size) (access : Access) (h : s.outsideWindow addr) :
    s.busStep addr size access = .fault .addressNotDecoded := by
  have hw : s.windowOffset addr = none := if_neg (by unfold State.outsideWindow at h; omega)
  simp [State.busStep, hw]

theorem busStep_of_inside {s : State} {addr : Nat} (size : Size) (access : Access) (h : ¬ s.outsideWindow addr) :
    s.busStep addr size access = .next (s.transact ⟨BitVec.ofNat 17 (addr - s.pBase), size, access⟩) := by
  have hw : s.windowOffset addr = some (BitVec.ofNat 17 (addr - s.pBase)) :=
    if_pos (by unfold State.outsideWindow at h; omega)
  simp [State.busStep, hw]

theorem step_of_straysNext {s : State} (h : s.straysNext) : step s = .fault .addressNotDecoded := by
  obtain ⟨addr, size, access, rest, hs, ho⟩ := h
  rw [step_of_bus hs]
  exact busStep_of_outside size access ho

/-- Every other move, of either agent or a reset, has a next state. -/
theorem step_next_of_not_straysNext {s : State} (h : ¬ s.straysNext) : ∃ t, step s = .next t := by
  cases hs : s.sched with
  | nil => exact step_of_engineTurn (.inr ⟨hs, rfl⟩) ▸ engineStep_next _
  | cons e rest =>
    cases e with
    | bus addr size access =>
      have hin : ¬ s.outsideWindow addr := fun ho => h ⟨addr, size, access, rest, hs, ho⟩
      exact ⟨_, (step_of_bus hs).trans (busStep_of_inside size access hin)⟩
    | engine => exact step_of_engineTurn (.inl hs) ▸ engineStep_next _
    | reset cells => exact ⟨_, step_of_reset hs⟩

/-! ### The statements -/

/-- Settles O5: the Engine's turn reaches `exec` through the decoder. -/
theorem stepRunsDecodedCommand : Obligations.StepRunsDecodedCommand := by
  intro s rest i hb ht hd
  rw [step_of_engineTurn ht]
  exact engineStep_of_decode_ok hb hd

/-- Settles O6: placing a word gives the Engine the next turn, and the word placed decodes to its own command. -/
theorem placedCommandRuns : Obligations.PlacedCommandRuns := by
  intro s i
  rw [withFetchWord_toNat, step_of_engineTurn (placeCommand_engineTurn s (encode i))]
  exact engineStep_of_decode_ok rfl (decode_encode i)

/-- Settles O8: with BUSY = 0 the Engine has no step. -/
theorem engineTurnWhileIdleChangesNothing : Obligations.EngineTurnWhileIdleChangesNothing := by
  intro s rest hb ht
  rw [step_of_engineTurn ht]
  exact engineStep_of_idle hb

/-- Settles O9: only a transaction outside the window faults, and every other move answers a next state. -/
theorem machineStopsOnlyOutsideItsWindow : Obligations.MachineStopsOnlyOutsideItsWindow := by
  intro s
  by_cases h : s.straysNext
  · have hf := step_of_straysNext h
    exact ⟨⟨fun ⟨t, ht⟩ => by simp [hf] at ht, fun hn => absurd h hn⟩, fun _ => hf⟩
  · have hn := step_next_of_not_straysNext h
    exact ⟨⟨fun _ => h, fun _ => hn⟩, fun hne => absurd hn hne⟩

/-- Settles O10: an illegal word ends in ERR_ILLEGAL_CMD, and every command completes within the same frame. -/
theorem engineTurnCompletesAnyWord : Obligations.EngineTurnCompletesAnyWord := by
  intro s rest hb ht
  rw [step_of_engineTurn ht]
  obtain ⟨t, hstep, hdone⟩ := engineStep_completesTo (s := { s with sched := rest }) hb
  exact ⟨t, hstep, hdone.outLen_of_error, hdone.frame⟩

end Sys2Proof.Machine
end

section
/-! PROOFS. The canonical form of the buffer's list (log entry 3): the contents determine it; and a
string read where it was written. -/

namespace Sys2Proof.Machine

theorem wfFrom_cons {lo c : Nat} {v : Byte} {m : Memory} :
    Memory.wfFrom lo ((c, v) :: m) = true ↔ lo ≤ c ∧ v ≠ unlistedByte ∧ Memory.wfFrom (c + 1) m = true := by
  simp [Memory.wfFrom, and_assoc]

@[simp] theorem readByte_cons_self (c : Nat) (v : Byte) (m : Memory) : Memory.readByte ((c, v) :: m) c = v := by
  simp [Memory.readByte]

theorem readByte_cons_of_ne {a c : Nat} (v : Byte) (m : Memory) (h : a ≠ c) :
    Memory.readByte ((c, v) :: m) a = Memory.readByte m a := by
  simp [Memory.readByte, h]

/-- A canonical list that reads as unlisted everywhere lists nothing. -/
theorem eq_nil_of_readByte {lo : Nat} {m : Memory} (h : Memory.wfFrom lo m = true)
    (hr : ∀ a, m.readByte a = unlistedByte) : m = [] := by
  cases m with
  | nil => rfl
  | cons cell m =>
    obtain ⟨c, v⟩ := cell
    obtain ⟨-, hv, -⟩ := wfFrom_cons.1 h
    exact absurd (by simpa using hr c) hv

/-- The first address a canonical list names is not below the first that another names with the same contents. -/
theorem head_le_of_readByte {c d : Nat} {v w : Byte} {m n : Memory} (hv : v ≠ unlistedByte)
    (hn : Memory.wfFrom d ((d, w) :: n) = true)
    (hr : ∀ a, Memory.readByte ((c, v) :: m) a = Memory.readByte ((d, w) :: n) a) : d ≤ c := by
  by_contra hlt
  have hc := hr c
  rw [readByte_cons_self, readByte_of_lt hn (by omega)] at hc
  exact hv hc

/-- From any address up, canonical lists with the same contents are the same list. -/
theorem eq_of_readByte {lo : Nat} {m n : Memory} (hm : Memory.wfFrom lo m = true) (hn : Memory.wfFrom lo n = true)
    (hr : ∀ a, m.readByte a = n.readByte a) : m = n := by
  induction m generalizing lo n with
  | nil => exact (eq_nil_of_readByte hn fun a => (hr a).symm).symm
  | cons cell m ih =>
    cases n with
    | nil => exact eq_nil_of_readByte hm hr
    | cons cell' n =>
      obtain ⟨c, v⟩ := cell
      obtain ⟨d, w⟩ := cell'
      obtain ⟨-, hv, hm'⟩ := wfFrom_cons.1 hm
      obtain ⟨-, hw, hn'⟩ := wfFrom_cons.1 hn
      have hcd : c = d := le_antisymm
        (head_le_of_readByte hw (wfFrom_cons.2 ⟨le_rfl, hv, hm'⟩) fun a => (hr a).symm)
        (head_le_of_readByte hv (wfFrom_cons.2 ⟨le_rfl, hw, hn'⟩) hr)
      subst hcd
      have hvw : v = w := by simpa using hr c
      have htail : ∀ a, Memory.readByte m a = Memory.readByte n a := fun a => by
        by_cases ha : a = c
        · rw [ha, readByte_of_lt hm' (Nat.lt_succ_self c), readByte_of_lt hn' (Nat.lt_succ_self c)]
        · rw [← readByte_cons_of_ne v m ha, hr a, readByte_cons_of_ne w n ha]
      rw [hvw, ih hm' hn' htail]

/-- A string written is read back from its address. -/
theorem read_write_self {m : Memory} (h : m.wf = true) (a : Nat) (v : List Byte) : (m.write a v).read a v.length = v := by
  rw [read_eq_map]
  refine List.ext_getElem (by simp) fun j _ hj => ?_
  simp [readByte_write h, hj]

/-- Settles O40: the canonical form from address 0 up. -/
theorem equalContentsAreEqualData : Obligations.EqualContentsAreEqualData :=
  fun _ _ hm hn hr => eq_of_readByte hm hn hr

end Sys2Proof.Machine
end

section
/-! PROOFS. What a command can do to the storage (10_state.md R45 to R48, 40_host_interface.md R151, R154): its checks and the
error they raise, the one change it makes to the key registers, and the one string it stores inside the buffer. -/

namespace Sys2Proof.Machine

/-! ### The checks of a command -/

/-- The checks a command runs before it computes, in the order of R154. -/
def checksOf : Instr → State → List Check
  | .nop, _ | .keyclear, _ => []
  | .kdf x, s => kdfChecks x s
  | .keyload, s => keyloadChecks s
  | .aesEnc, s => aesEncChecks s
  | .aesDec, s => aesDecChecks s
  | .macGen, s => macGenChecks s
  | .macVerify, s => macVerifyChecks s
  | .pktEncode, s => pktEncodeChecks s
  | .pktDecode, s => pktDecodeChecks s
  | .sealPkt, s => sealChecks s
  | .openPkt, s => openChecks s

/-- The first failing check is the command's whole effect, but for AUTOCLR of SEAL and OPEN (R154, R322, R344). -/
theorem exec_of_firstFail {i : Instr} {s : State} {e : ErrCode} (h : firstFail (checksOf i s) = some e) :
    exec i s = .next (if isProtocol i then (s.raiseErr e).autoClear else s.raiseErr e) := by
  cases i with
  | nop | keyclear => cases h
  | kdf | keyload | aesEnc | aesDec | macGen | macVerify | pktEncode | pktDecode | sealPkt | openPkt =>
    rw [checksOf] at h
    simp [exec, execKdf, execKeyload, execAesEnc, execAesDec, execMacGen, execMacVerify, execPktEncode, execPktDecode,
      execSeal, sealBody, execOpen, openBody, isProtocol, h]

/-- Every check reports an error: ERRCODE 0 is no check's code (R341). -/
theorem checksOf_code_ne_ok {i : Instr} {s : State} {c : Check} (hc : c ∈ checksOf i s) : c.2 ≠ .ok := by
  revert c
  cases i with
  | nop | keyclear => exact fun h => nomatch h
  | kdf x => cases x <;> simp [checksOf, kdfChecks]
  | keyload | aesEnc | aesDec | macGen | macVerify | pktEncode | pktDecode | sealPkt | openPkt =>
    simp [checksOf, keyloadChecks, aesEncChecks, aesDecChecks, macGenChecks, macVerifyChecks, pktEncodeChecks,
      pktDecodeChecks, sealChecks, openChecks, State.decodeChecks]

theorem ne_ok_of_firstFail {i : Instr} {s : State} {e : ErrCode} (h : firstFail (checksOf i s) = some e) : e ≠ .ok :=
  checksOf_code_ne_ok (firstFail_mem h)

/-- The commands that read a key register check that it is valid (R47). -/
theorem hasKey_mem_checksOf {i : Instr} (s : State) (h : readsKeys i = true) : s.hasKey ∈ checksOf i s := by
  cases i with
  | nop | kdf x | keyload | keyclear | pktEncode | pktDecode => cases h
  | aesEnc | aesDec | macGen | macVerify | sealPkt | openPkt =>
    simp [checksOf, aesEncChecks, aesDecChecks, macGenChecks, macVerifyChecks, sealChecks, openChecks]

/-- A region whose bounds check is among checks that all pass lies in the buffer. -/
theorem fits_of_firstFail_none {s : State} {r : Region} {cs : List Check} (h : firstFail cs = none)
    (hr : s.within r ∈ cs) : s.fits r.addr r.len :=
  (within_passes s r).1 (firstFail_eq_none.1 h _ hr)

/-- Without a valid key, a command that reads a key register fails one of its checks. -/
theorem firstFail_of_noKey {i : Instr} {s : State} (hr : readsKeys i = true) (hk : s.keyValid = false) :
    ∃ e, firstFail (checksOf i s) = some e := by
  cases hf : firstFail (checksOf i s) with
  | some e => exact ⟨e, rfl⟩
  | none =>
    have hpass : s.hasKey.1 = false := firstFail_eq_none.1 hf _ (hasKey_mem_checksOf s hr)
    rw [hasKey_passes, hk] at hpass
    cases hpass

/-! ### The lengths of what is stored -/

/-- A ciphertext is the padded plaintext's length (R117). -/
theorem encrypt_length (s : State) (p : List Byte) : (s.encrypt p).length = paddedLen p.length := by
  simp only [State.encrypt, cbcEnc_length, pkcs7Pad_length, paddedLen]
  omega

theorem tagOf_length (s : State) (m : List Byte) : (s.tagOf m).length = s.tagLen :=
  macTag_length _ _ (by obtain h | h := tagLen_cases s <;> omega)

@[simp] theorem readRegion_length (s : State) (r : Region) : (s.readRegion r).length = r.len :=
  read_length s.buf r.addr r.len

/-- The packet SEAL writes has the length R117 gives. -/
theorem sealedPacket_length (s : State) : (s.sealedPrefix ++ s.tagOf s.sealedPrefix).length = s.sealedLen := by
  simp [tagOf_length, State.sealedPrefix, encrypt_length, State.sealedLen, headerLen, flagBytes, State.pubRegion,
    State.srcRegion]
  omega

/-- The packet PKT_ENCODE writes has the length R300 gives. -/
theorem encodedPacket_length (s : State) :
    (flagBytes ++ s.readRegion s.pubRegion ++ s.readRegion (s.srcRegion s.len) ++ s.readRegion s.tagRegion).length =
      s.encodedLen := by
  simp [State.encodedLen, headerLen, flagBytes, State.pubRegion, State.srcRegion, State.tagRegion]
  omega

/-! ### One store inside the buffer, then completion -/

/-- `t` is `s` with one string, empty or not, stored inside the buffer, and the command then completed with a result no longer
than the buffer (R10, R151). -/
def State.StoresTo (s t : State) : Prop :=
  ∃ a v e n, s.fits a v.length ∧ n ≤ s.bufBytes ∧ t = (s.memWrite a v).finish e n

theorem raiseErr_storesTo (s : State) (e : ErrCode) : s.StoresTo (s.raiseErr e) :=
  ⟨0, [], e, 0, Nat.zero_le _, Nat.zero_le _, rfl⟩

theorem complete_storesTo {s : State} {n : Nat} (hn : n ≤ s.bufBytes) : s.StoresTo (s.complete n) :=
  ⟨0, [], .ok, n, Nat.zero_le _, hn, rfl⟩

/-- A command that writes its result to a region in the buffer and completes with the result's length. -/
theorem memWrite_complete_storesTo {s : State} {a n : Nat} {v : List Byte} (hv : v.length = n) (h : s.fits a n) :
    s.StoresTo ((s.memWrite a v).complete n) :=
  ⟨a, v, .ok, n, hv ▸ h, le_trans (Nat.le_add_left n a) h, rfl⟩

theorem failClosed_storesTo {s : State} {out : Region} (e : ErrCode) (h : s.fits out.addr out.len) :
    s.StoresTo (s.failClosed out e) :=
  ⟨out.addr, bytes out.len 0x00, e, 0, by simpa using h, Nat.zero_le _, rfl⟩

theorem unpadTo_storesTo {s : State} {out : Region} (d : List Byte) (bad : ErrCode) (h : s.fits out.addr out.len) :
    s.StoresTo (s.unpadTo out d bad) := by
  obtain ⟨-, hu⟩ | ⟨p, -, hu⟩ := unpadTo_cases s out d bad
  · exact hu ▸ failClosed_storesTo bad h
  · have hlen : (slice d 0 (out.len - p)).length ≤ out.len := by rw [slice_length]; omega
    exact hu ▸ ⟨out.addr, _, .ok, out.len - p, le_trans (Nat.add_le_add_left hlen _) h, by omega, rfl⟩

theorem sealBody_storesTo (s : State) : s.StoresTo (sealBody s) := by
  obtain ⟨e, -, h⟩ | ⟨hpass, h⟩ := sealBody_cases s
  · exact h ▸ raiseErr_storesTo s e
  · exact h ▸ memWrite_complete_storesTo (sealedPacket_length s)
      (fits_of_firstFail_none (r := s.dstRegion s.sealedLen) hpass (by simp [sealChecks]))

theorem openBody_storesTo (s : State) : s.StoresTo (openBody s) := by
  obtain ⟨e, -, h⟩ | ⟨hpass, h⟩ := openBody_cases s
  · exact h ▸ raiseErr_storesTo s e
  · have hout := fits_of_firstFail_none (s := s) (r := s.dstRegion s.openedLen) hpass (by simp [openChecks])
    obtain h | h := h
    · exact h ▸ failClosed_storesTo .auth hout
    · exact h ▸ unpadTo_storesTo _ _ hout

/-! ### What a command does to the key registers, then to the buffer -/

/-- `u` is `s` with the key registers as the command i leaves them before it writes the buffer: as they were, loaded with 64
bytes, or cleared (R46, R241 to R243). -/
inductive State.SetsKeys (s : State) : Instr → State → Prop
  | kept (i : Instr) : State.SetsKeys s i s
  | derived (x : Bool) (k : List Byte) : k.length = 64 → State.SetsKeys s (.kdf x) (s.keyLoad k)
  | loaded (k : List Byte) : k.length = 64 → State.SetsKeys s .keyload (s.keyLoad k)
  | cleared : State.SetsKeys s .keyclear s.keyClear

/-- What any command does: it may set the key registers, stores one string inside the buffer, completes, and ends with AUTOCLR
when it is SEAL or OPEN (R151, R322). -/
theorem exec_cases (i : Instr) (s : State) :
    ∃ u t, s.SetsKeys i u ∧ u.StoresTo t ∧ exec i s = .next (if isProtocol i then t.autoClear else t) := by
  cases i with
  | nop => exact ⟨s, _, .kept _, complete_storesTo (Nat.zero_le _), rfl⟩
  | kdf x =>
    obtain ⟨e, -, h⟩ | ⟨hpass, h⟩ := execKdf_cases x s
    · exact ⟨s, _, .kept _, raiseErr_storesTo s e, h⟩
    · have hkeys := State.SetsKeys.derived (s := s) x _ (deriveKeys_length (s.readRegion (s.srcRegion 33)))
      cases x with
      | false => exact ⟨_, _, hkeys, complete_storesTo (Nat.zero_le _), h⟩
      | true =>
        exact ⟨_, _, hkeys, memWrite_complete_storesTo (deriveKeys_length _)
          (fits_of_firstFail_none (s := s) (r := s.dstRegion 64) hpass (by simp [kdfChecks])), h⟩
  | keyload =>
    obtain ⟨e, -, h⟩ | ⟨-, h⟩ := execKeyload_cases s
    · exact ⟨s, _, .kept _, raiseErr_storesTo s e, h⟩
    · exact ⟨_, _, .loaded _ (readRegion_length _ _), complete_storesTo (Nat.zero_le _), h⟩
  | keyclear => exact ⟨_, _, .cleared, complete_storesTo (Nat.zero_le _), rfl⟩
  | aesEnc =>
    obtain ⟨e, -, h⟩ | ⟨hpass, h⟩ := execAesEnc_cases s
    · exact ⟨s, _, .kept _, raiseErr_storesTo s e, h⟩
    · have hlen : (s.encrypt (s.readRegion (s.srcRegion s.len))).length = paddedLen s.len := by
        rw [encrypt_length, readRegion_length]; rfl
      exact ⟨s, _, .kept _, memWrite_complete_storesTo hlen
        (fits_of_firstFail_none (r := s.dstRegion (paddedLen s.len)) hpass (by simp [aesEncChecks])), h⟩
  | aesDec =>
    obtain ⟨e, -, h⟩ | ⟨hpass, h⟩ := execAesDec_cases s
    · exact ⟨s, _, .kept _, raiseErr_storesTo s e, h⟩
    · exact ⟨s, _, .kept _, unpadTo_storesTo _ _ (fits_of_firstFail_none hpass (by simp [aesDecChecks])), h⟩
  | macGen =>
    obtain ⟨e, -, h⟩ | ⟨hpass, h⟩ := execMacGen_cases s
    · exact ⟨s, _, .kept _, raiseErr_storesTo s e, h⟩
    · exact ⟨s, _, .kept _, memWrite_complete_storesTo (tagOf_length s _)
        (fits_of_firstFail_none (r := s.dstRegion s.tagLen) hpass (by simp [macGenChecks])), h⟩
  | macVerify =>
    obtain ⟨e, -, h⟩ | ⟨-, h | h⟩ := execMacVerify_cases s
    · exact ⟨s, _, .kept _, raiseErr_storesTo s e, h⟩
    · exact ⟨s, _, .kept _, complete_storesTo (Nat.zero_le _), h⟩
    · exact ⟨s, _, .kept _, raiseErr_storesTo s .auth, h⟩
  | pktEncode =>
    obtain ⟨e, -, h⟩ | ⟨hpass, h⟩ := execPktEncode_cases s
    · exact ⟨s, _, .kept _, raiseErr_storesTo s e, h⟩
    · exact ⟨s, _, .kept _, memWrite_complete_storesTo (encodedPacket_length s)
        (fits_of_firstFail_none (r := s.dstRegion s.encodedLen) hpass (by simp [pktEncodeChecks])), h⟩
  | pktDecode =>
    obtain ⟨e, -, h⟩ | ⟨hpass, h⟩ := execPktDecode_cases s
    · exact ⟨s, _, .kept _, raiseErr_storesTo s e, h⟩
    · have hsrc : s.srcAddr.toNat + s.len ≤ s.bufBytes :=
        fits_of_firstFail_none (r := s.srcRegion s.len) hpass (by simp [pktDecodeChecks])
      exact ⟨s, _, .kept _, complete_storesTo (by unfold packetCtLen; omega), h⟩
  | sealPkt => exact ⟨s, _, .kept _, sealBody_storesTo s, rfl⟩
  | openPkt => exact ⟨s, _, .kept _, openBody_storesTo s, rfl⟩

end Sys2Proof.Machine
end

section
/-! PROOFS. The invariant of the machine (10_state.md R42, R46, R48, R90) in three parts, each kept by both agents and by reset. -/

namespace Sys2Proof.Machine

/-! ### The step by its mover -/

/-- Every step is a turn of the Engine, a transaction the block decodes, or a reset (R12, R88, R383). -/
theorem step_cases {s t : State} (h : step s = .next t) :
    (∃ rest, s.engineTurn rest ∧ { s with sched := rest }.engineStep = .next t) ∨
      (∃ addr size access rest, s.sched = .bus addr size access :: rest ∧ ¬ s.outsideWindow addr ∧
        t = { s with sched := rest }.transact ⟨BitVec.ofNat 17 (addr - s.pBase), size, access⟩) ∨
      ∃ cells rest, s.sched = .reset cells :: rest ∧ t = { s with sched := rest }.resetWith cells := by
  cases hs : s.sched with
  | nil =>
    have ht : s.engineTurn [] := .inr ⟨hs, rfl⟩
    exact .inl ⟨[], ht, step_of_engineTurn ht ▸ h⟩
  | cons e rest =>
    cases e with
    | engine =>
      have ht : s.engineTurn rest := .inl hs
      exact .inl ⟨rest, ht, step_of_engineTurn ht ▸ h⟩
    | bus addr size access =>
      by_cases ho : s.outsideWindow addr
      · have hf := step_of_straysNext ⟨addr, size, access, rest, hs, ho⟩
        rw [hf] at h
        cases h
      · have hin := (step_of_bus hs).trans (busStep_of_inside size access ho)
        rw [hin] at h
        cases h
        exact .inr (.inl ⟨addr, size, access, rest, rfl, ho, rfl⟩)
    | reset cells =>
      rw [step_of_reset hs] at h
      cases h
      exact .inr (.inr ⟨cells, rest, rfl, rfl⟩)

/-- The Engine's turn does nothing while IDLE, ends an illegal word in ERR_ILLEGAL_CMD, or runs the command in CMD (R151). -/
theorem engineStep_cases {s t : State} (h : s.engineStep = .next t) :
    (s.busy = false ∧ t = s) ∨ (s.busy = true ∧ t = s.raiseErr .illegalCmd) ∨
      (s.busy = true ∧ ∃ i, decode s.cmd = .ok i ∧ exec i s = .next t) := by
  cases hb : s.busy with
  | false =>
    rw [engineStep_of_idle hb] at h
    cases h
    exact .inl ⟨rfl, rfl⟩
  | true =>
    cases hd : decode s.cmd with
    | error r =>
      rw [engineStep_of_decode_error hb hd] at h
      cases h
      exact .inr (.inl ⟨rfl, rfl⟩)
    | ok i => exact .inr (.inr ⟨rfl, i, rfl, engineStep_of_decode_ok hb hd ▸ h⟩)

/-! ### The three parts of the invariant -/

/-- The buffer's list is canonical and lies in the buffer (R48). -/
def State.BufOk (s : State) : Prop := s.buf.wf = true ∧ Memory.below s.bufBytes s.buf = true

/-- K is 64 bytes, all zero while key[VALID] = 0 (R46). -/
def State.KeysOk (s : State) : Prop :=
  s.keys.length = 64 ∧ (s.keyValid = false → s.keys = List.replicate 64 0)

/-- DONE, ERRCODE and OUT_LEN fit the phase, and OUT_LEN fits ERRCODE and the buffer (R42, R90, R118, R150). -/
def State.ResultOk (s : State) : Prop :=
  (s.busy = true → s.done = false ∧ s.errCode = .ok ∧ s.outLen = 0) ∧
    (s.errCode ≠ .ok → s.outLen = 0) ∧ s.outLen.toNat ≤ s.bufBytes

theorem inv_iff (s : State) : s.Inv ↔ s.BufOk ∧ s.KeysOk ∧ s.ResultOk := by
  simp only [State.Inv, State.BufOk, State.KeysOk, State.ResultOk, and_assoc]

/-! ### Kept by the Engine -/

theorem memWrite_bufOk {s : State} {a : Nat} {v : List Byte} (h : s.BufOk) (hv : s.fits a v.length) :
    (s.memWrite a v).BufOk :=
  ⟨write_wf h.1 a v, write_below h.2 hv⟩

theorem keyLoad_keysOk (s : State) {k : List Byte} (hk : k.length = 64) : (s.keyLoad k).KeysOk :=
  ⟨hk, fun h => nomatch h⟩

theorem keyClear_keysOk (s : State) : s.keyClear.KeysOk := ⟨bytes_length 64 0, fun _ => rfl⟩

theorem setsKeys_keysOk {i : Instr} {s u : State} (h : s.SetsKeys i u) (hk : s.KeysOk) : u.KeysOk := by
  cases h with
  | kept => exact hk
  | derived x k hlen => exact keyLoad_keysOk s hlen
  | loaded k hlen => exact keyLoad_keysOk s hlen
  | cleared => exact keyClear_keysOk s

theorem setsKeys_bufOk {i : Instr} {s u : State} (h : s.SetsKeys i u) (hb : s.BufOk) : u.BufOk := by
  cases h <;> exact hb

/-- A completion leaves the phase and the result in order: OUT_LEN is the length completed with, or 0 after an error. -/
theorem finish_resultOk {s : State} (e : ErrCode) {n : Nat} (hn : n ≤ s.bufBytes) : (s.finish e n).ResultOk := by
  refine ⟨fun h => (nomatch h), fun he => by simpa using fun h => absurd h he, ?_⟩
  rw [finish_outLen, finish_bufBytes]
  split
  · rw [BitVec.toNat_ofNat]
    exact le_trans (Nat.mod_le _ _) hn
  · exact Nat.zero_le _

/-- One store inside the buffer and a completion lead from sound storage to the whole invariant. -/
theorem storesTo_inv {s t : State} (h : s.StoresTo t) (hb : s.BufOk) (hk : s.KeysOk) : t.Inv := by
  obtain ⟨a, v, e, n, hfit, hn, rfl⟩ := h
  exact (inv_iff _).2 ⟨memWrite_bufOk hb hfit, hk, finish_resultOk e hn⟩

/-- AUTOCLR keeps the invariant: cleared keys are 64 zero bytes (R322). -/
theorem autoClear_inv {s : State} (h : s.Inv) : s.autoClear.Inv := by
  unfold State.autoClear
  split
  · obtain ⟨hb, -, hr⟩ := (inv_iff s).1 h
    exact (inv_iff _).2 ⟨hb, keyClear_keysOk s, hr⟩
  · exact h

theorem exec_inv {i : Instr} {s t : State} (h : exec i s = .next t) (hb : s.BufOk) (hk : s.KeysOk) : t.Inv := by
  obtain ⟨u, t', hset, hstore, hexec⟩ := exec_cases i s
  have hinv : t'.Inv := storesTo_inv hstore (setsKeys_bufOk hset hb) (setsKeys_keysOk hset hk)
  rw [hexec] at h
  cases h
  split
  · exact autoClear_inv hinv
  · exact hinv

theorem engineStep_inv {s t : State} (h : s.engineStep = .next t) (hinv : s.Inv) : t.Inv := by
  obtain ⟨hb, hk, -⟩ := (inv_iff s).1 hinv
  obtain ⟨-, rfl⟩ | ⟨-, rfl⟩ | ⟨-, i, -, hexec⟩ := engineStep_cases h
  · exact hinv
  · exact storesTo_inv (raiseErr_storesTo s .illegalCmd) hb hk
  · exact exec_inv hexec hb hk

/-! ### Kept by the Host and by reset -/

/-- Acceptance clears DONE, ERRCODE and OUT_LEN as it raises BUSY (R150). -/
theorem accept_resultOk (s : State) (v : Word) : (s.accept v).ResultOk :=
  ⟨fun _ => ⟨rfl, rfl, rfl⟩, fun _ => rfl, Nat.zero_le _⟩

/-- A STATUS write only lowers DONE (R39). -/
theorem writeStatus_resultOk {s : State} (v : Word) (h : s.ResultOk) : (s.writeStatus v).ResultOk := by
  obtain ⟨hbusy, herr, hlen⟩ := h
  rw [writeStatus_eq]
  refine ⟨fun hb => ?_, herr, hlen⟩
  obtain ⟨hd, he, ho⟩ := hbusy hb
  exact ⟨by simp [hd], he, ho⟩

/-- A refused write sets a flag only, and a write that is not refused leaves what it leaves (R38, R43). -/
theorem unlessBusy_resultOk {s w : State} (h : s.ResultOk) (hw : w.ResultOk) : (s.unlessBusy w).ResultOk := by
  unfold State.unlessBusy
  split
  · exact h
  · exact hw

theorem writeCmd_resultOk {s : State} (v : Word) (h : s.ResultOk) : (s.writeCmd v).ResultOk := by
  unfold State.writeCmd
  split
  · exact h
  · exact accept_resultOk s v

theorem regWrite_resultOk {s : State} (v : Word) (r : Register) (h : s.ResultOk) : (s.regWrite v r).ResultOk := by
  cases r with
  | status => exact writeStatus_resultOk v h
  | cmd => exact writeCmd_resultOk v h
  | ctrl | srcAddr | srcLen | dstAddr | pubAddr | tagAddr => exact unlessBusy_resultOk h h
  | id | version | cap | errCode | outLen => exact h

theorem hostStep_resultOk {s : State} (t : Txn) (h : s.ResultOk) : (s.hostStep t).2.ResultOk := by
  obtain hs | ⟨-, hs⟩ | ⟨-, hs⟩ | ⟨v, r, hs⟩ | ⟨-, -, -, v, hs⟩ := hostStep_cases s t
  · rwa [hs]
  · exact hs ▸ h
  · exact hs ▸ h
  · exact hs ▸ regWrite_resultOk v r h
  · exact hs ▸ h

/-- No transaction changes the build's parameters, so the buffer keeps its size (R7). -/
theorem hostStep_bufBytes (s : State) (t : Txn) : (s.hostStep t).2.bufBytes = s.bufBytes := by
  obtain ⟨-, -, hcfg, -⟩ := hostStep_hidden s t
  rw [State.bufBytes, hcfg]
  rfl

theorem hostStep_inv {s : State} (t : Txn) (h : s.Inv) : (s.hostStep t).2.Inv := by
  obtain ⟨⟨hw, hb⟩, hk, hr⟩ := (inv_iff s).1 h
  obtain ⟨hkeys, hvalid, -, -⟩ := hostStep_hidden s t
  obtain ⟨hw', hb'⟩ := hostStep_buf s t hw hb
  refine (inv_iff _).2 ⟨⟨hw', by rwa [hostStep_bufBytes]⟩, ?_, hostStep_resultOk t hr⟩
  unfold State.KeysOk
  rwa [hkeys, hvalid]

/-- Recording the response touches no part of the invariant. -/
theorem transact_inv {s : State} (t : Txn) (h : s.Inv) : (s.transact t).Inv := hostStep_inv t h

/-- Keys and result right after reset are in order, whatever the buffer draws (R380). -/
theorem resetWith_inv (s : State) (cells : List Host.Cell) : (s.resetWith cells).Inv :=
  (inv_iff _).2 ⟨drawn_wf s.bufBytes cells, ⟨rfl, fun _ => rfl⟩, ⟨fun h => (nomatch h), fun _ => rfl, Nat.zero_le _⟩⟩

/-! ### The statements -/

/-- Settles O28: the Engine, the Host and reset each keep the invariant, and taking a move off the schedule is no part of it. -/
theorem everyStepKeepsTheInvariant : Obligations.EveryStepKeepsTheInvariant := by
  intro s t hinv hstep
  obtain ⟨rest, -, he⟩ | ⟨addr, size, access, rest, -, -, rfl⟩ | ⟨cells, rest, -, rfl⟩ := step_cases hstep
  · exact engineStep_inv he hinv
  · exact transact_inv _ hinv
  · exact resetWith_inv _ cells

/-- Settles O27: the state right after reset is the reset of itself with nothing drawn. -/
theorem resetMeetsTheInvariant : Obligations.ResetMeetsTheInvariant :=
  resetWith_inv State.reset []

end Sys2Proof.Machine
end

section
/-! PROOFS. The key registers (10_state.md R45 to R47): who writes them, what a command does without them, and the way out and
back in of KDF.X and KEYLOAD (42_key_commands.md R241, R242). -/

namespace Sys2Proof.Machine

/-! ### The writers of the key registers -/

/-- `t` has the key registers of `s`. -/
def State.KeepsKeys (s t : State) : Prop := t.keys = s.keys ∧ t.keyValid = s.keyValid

/-- The commands that set the key registers are KDF, KEYLOAD and KEYCLEAR (R45). -/
theorem setsKeys_cases {i : Instr} {s u : State} (h : s.SetsKeys i u) :
    u = s ∨ i = .kdf false ∨ i = .kdf true ∨ i = .keyload ∨ i = .keyclear := by
  cases h with
  | kept => exact .inl rfl
  | derived x => cases x <;> simp
  | loaded => simp
  | cleared => simp

/-- A store and a completion touch neither the key registers nor CTRL. -/
theorem storesTo_keepsKeys {s t : State} (h : s.StoresTo t) : s.KeepsKeys t ∧ t.ctrl = s.ctrl := by
  obtain ⟨a, v, e, n, -, -, rfl⟩ := h
  exact ⟨⟨rfl, rfl⟩, rfl⟩

theorem autoClear_of_not_autoclr {s : State} (h : s.autoclr = false) : s.autoClear = s := by
  simp [State.autoClear, h]

/-- A command either keeps the key registers, is one of the key commands, or ends with AUTOCLR (R45, R322). -/
theorem exec_keys {i : Instr} {s t : State} (h : exec i s = .next t) :
    s.KeepsKeys t ∨ i = .kdf false ∨ i = .kdf true ∨ i = .keyload ∨ i = .keyclear ∨
      (isProtocol i = true ∧ s.autoclr = true) := by
  obtain ⟨u, t', hset, hstore, hexec⟩ := exec_cases i s
  obtain rfl | rfl | rfl | rfl | rfl := setsKeys_cases hset
  case inl =>
    obtain ⟨hkeep, hctrl⟩ := storesTo_keepsKeys hstore
    rw [hexec] at h
    cases h
    split
    case isFalse => exact .inl hkeep
    case isTrue hp =>
      cases hc : u.autoclr with
      | true => simp [hp]
      | false =>
        have hc' : t'.autoclr = false := by rw [State.autoclr, hctrl]; exact hc
        exact .inl (by rwa [autoClear_of_not_autoclr hc'])
  all_goals simp

/-- A transaction keeps the key registers: they have no address (R89). -/
theorem transact_keepsKeys (s : State) (t : Txn) : s.KeepsKeys (s.transact t) := by
  obtain ⟨hkeys, hvalid, -, -⟩ := hostStep_hidden s t
  exact ⟨hkeys, hvalid⟩

/-- Settles O29: of the three movers only reset and a command of the list change the key registers. -/
theorem keyRegisterWriters : Obligations.KeyRegisterWriters := by
  intro s t hstep hchanged
  have hnot : ¬ s.KeepsKeys t := fun ⟨hkeys, hvalid⟩ => hchanged.elim (absurd hkeys) (absurd hvalid)
  obtain ⟨rest, hturn, he⟩ | ⟨addr, size, access, rest, -, -, rfl⟩ | ⟨cells, rest, hs, -⟩ := step_cases hstep
  · obtain ⟨-, rfl⟩ | ⟨-, rfl⟩ | ⟨hb, i, hd, hexec⟩ := engineStep_cases he
    · exact absurd ⟨rfl, rfl⟩ hnot
    · exact absurd ⟨rfl, rfl⟩ hnot
    · exact .inr ⟨hb, ⟨rest, hturn⟩, i, hd, (exec_keys hexec).resolve_left hnot⟩
  · exact absurd (transact_keepsKeys _ _) hnot
  · exact .inl ⟨cells, rest, hs⟩

/-! ### Without a valid key -/

/-- Settles O30: the check of key[VALID], or one before it, fails, and a failing check writes no buffer. -/
theorem noKeyNoResult : Obligations.NoKeyNoResult := by
  intro i s hr hk
  obtain ⟨e, he⟩ := firstFail_of_noKey hr hk
  refine ⟨_, exec_of_firstFail he, ?_⟩
  split
  · exact ⟨by simpa using ne_ok_of_firstFail he, by simp⟩
  · exact ⟨ne_ok_of_firstFail he, rfl⟩

/-! ### KDF.X and back -/

/-- A KDF.X that ends in ERRCODE 0 has stored the digest, a 64-byte string inside the buffer, and holds it as its keys (R241). -/
theorem execKdfX_of_ok {s t : State} (h : exec (.kdf true) s = .next t) (hok : t.errCode = .ok) :
    ∃ k, k.length = 64 ∧ s.fits s.dstAddr.toNat 64 ∧
      t = ((s.keyLoad k).memWrite s.dstAddr.toNat k).complete 64 := by
  obtain ⟨e, he, hx⟩ | ⟨hpass, hx⟩ := execKdf_cases true s
  · have hne : e ≠ .ok := ne_ok_of_firstFail (i := .kdf true) he
    cases hx.symm.trans h
    exact absurd hok hne
  · cases hx.symm.trans h
    exact ⟨_, deriveKeys_length _,
      fits_of_firstFail_none (s := s) (r := s.dstRegion 64) hpass (by simp [kdfChecks]), rfl⟩

/-- A KEYLOAD of 64 bytes inside the buffer loads them (R242). -/
theorem execKeyload_of_fits {s : State} (hlen : s.srcLen = 64) (hfit : s.fits s.srcAddr.toNat 64) :
    exec .keyload s = .next ((s.keyLoad (s.memRead s.srcAddr.toNat 64)).complete 0) := by
  have hpass : firstFail (keyloadChecks s) = none :=
    firstFail_eq_none.2 (by simp [keyloadChecks, State.len, State.srcRegion, hlen, hfit])
  obtain ⟨e, he, -⟩ | ⟨-, hx⟩ := execKeyload_cases s
  · cases hpass.symm.trans he
  · exact hx

/-- Settles O56: the 64 bytes read at the digest's address are the digest. -/
theorem exportedKeysLoadBack : Obligations.ExportedKeysLoadBack := by
  intro s t hw hstep hok
  obtain ⟨k, hk, hfit, rfl⟩ := execKdfX_of_ok hstep hok
  have hread : (s.buf.write s.dstAddr.toNat k).read s.dstAddr.toNat 64 = k := hk ▸ read_write_self hw _ k
  exact ⟨_, execKeyload_of_fits rfl hfit, rfl, hread, rfl, rfl⟩

end Sys2Proof.Machine
end

section
/-! PROOFS. The Host's transactions (40_host_interface.md R140 to R150): what each kind leaves, that they do not see the key
registers, that they spare a command in flight, and which of them clear a refusal flag. -/

namespace Sys2Proof.Machine

/-! ### A write of a register -/

theorem registerAt_offset (r : Register) : registerAt r.offset = some r := by cases r <;> rfl

theorem registerAt_eq_some {off : Nat} {r : Register} (h : registerAt off = some r) : off = r.offset := by
  unfold registerAt at h
  split at h <;> cases h <;> rfl

/-- The transaction that writes `v` to the register r (R35, R140). -/
def Register.writeTxn (r : Register) (v : Word) : Txn := ⟨BitVec.ofNat 17 r.offset, .word, .write v⟩

/-- A 32-bit write at a register's offset writes that register and answers OKAY (R142). -/
theorem hostStep_writeTxn (s : State) (r : Register) (v : Word) :
    s.hostStep (r.writeTxn v) = (⟨.okay, none⟩, s.regWrite v r) := by
  obtain ⟨hspace, halign⟩ : r.offset < 0x10000 ∧ r.offset % 4 = 0 := by cases r <;> decide
  have hoff : (r.writeTxn v).off.toNat = r.offset := by
    rw [Register.writeTxn, BitVec.toNat_ofNat]
    omega
  rw [State.hostStep, hoff, if_pos hspace, State.registerTxn, hoff, if_neg (by simp [Register.writeTxn, halign])]
  simp [Register.writeTxn, State.writeReg, registerAt_offset]

/-- A transaction in the register space leaves the block unchanged or is a register's write (R84, R142). -/
theorem registerTxn_cases (s : State) (t : Txn) :
    (s.registerTxn t).2 = s ∨ ∃ r v, t = r.writeTxn v ∧ (s.registerTxn t).2 = s.regWrite v r := by
  obtain ⟨off, size, access⟩ := t
  unfold State.registerTxn
  split
  case isTrue => exact .inl rfl
  case isFalse h =>
    obtain ⟨rfl, -⟩ : size = .word ∧ off.toNat % 4 = 0 := by simpa using h
    cases access with
    | read => exact .inl rfl
    | write v =>
      dsimp only [State.writeReg]
      cases hr : registerAt off.toNat with
      | none => exact .inl rfl
      | some r =>
        refine .inr ⟨r, v, ?_, rfl⟩
        rw [Register.writeTxn, ← registerAt_eq_some hr, BitVec.ofNat_toNat, BitVec.setWidth_eq]

/-- A transaction in the buffer window leaves the block unchanged, writes the buffer while IDLE, or sets ACCERR while BUSY
(R81, R85, R87). -/
theorem windowTxn_cases (s : State) (t : Txn) :
    (s.windowTxn t).2 = s ∨ (s.busy = false ∧ ∃ m, (s.windowTxn t).2 = { s with buf := m }) ∨
      (s.busy = true ∧ ∃ n, (s.windowTxn t).2 = { s with accErr := true, draws := n }) := by
  unfold State.windowTxn
  dsimp only
  split
  · exact .inl rfl
  · split
    · exact .inl rfl
    · split
      case isTrue hb => cases t.access <;> exact .inr (.inr ⟨hb, _, rfl⟩)
      case isFalse hb => cases t.access <;> exact .inr (.inl ⟨by simpa using hb, _, rfl⟩)

/-- What any transaction leaves: what a window transaction can, or what the write of a register it names leaves. -/
theorem hostStep_writeTxn_cases (s : State) (t : Txn) :
    (s.hostStep t).2 = s ∨ (s.busy = false ∧ ∃ m, (s.hostStep t).2 = { s with buf := m }) ∨
      (s.busy = true ∧ ∃ n, (s.hostStep t).2 = { s with accErr := true, draws := n }) ∨
      ∃ r v, t = r.writeTxn v ∧ (s.hostStep t).2 = s.regWrite v r := by
  unfold State.hostStep
  split
  · obtain h | h := registerTxn_cases s t
    · exact .inl h
    · exact .inr (.inr (.inr h))
  · obtain h | h | h := windowTxn_cases s t
    · exact .inl h
    · exact .inr (.inl h)
    · exact .inr (.inr (.inl h))

/-! ### A command issued -/

/-- A CMD write while IDLE is the acceptance of its word (R40, R150). -/
theorem transact_cmd_of_idle {s : State} (v : Word) (hb : s.busy = false) :
    s.transact (Register.cmd.writeTxn v) = { s.accept v with resp := some ⟨.okay, none⟩ } := by
  simp [State.transact, hostStep_writeTxn, State.regWrite, State.writeCmd, hb]

/-- A 32-bit write at a register's host address, when it is next, is that register's write (R35, R88). -/
theorem step_of_registerWrite {s : State} {r : Register} {v : Word} {rest : List Event}
    (h : s.sched = .bus (s.pBase + r.offset) .word (.write v) :: rest) :
    step s = .next ({ s with sched := rest }.transact (r.writeTxn v)) := by
  have hoff : r.offset < 0x20000 := by cases r <;> decide
  have hin : ¬ s.outsideWindow (s.pBase + r.offset) := by unfold State.outsideWindow; omega
  rw [step_of_bus h, busStep_of_inside .word (.write v) (s := { s with sched := rest }) hin, Register.writeTxn]
  congr 4
  exact Nat.add_sub_cancel_left _ _

/-- Settles O7: the write is accepted, and the Engine's turn decodes the word accepted. -/
theorem issuedCommandRuns : Obligations.IssuedCommandRuns := by
  intro s i rest hb hs
  refine ⟨_, step_of_registerWrite (r := .cmd) hs, ?_⟩
  rw [transact_cmd_of_idle (s := { s with sched := .engine :: rest }) (encode i) hb, step_of_engineTurn (.inl rfl)]
  exact engineStep_of_decode_ok rfl (decode_encode i)

/-! ### A command in flight -/

/-- `u` is `s` but for DONE, ACCERR, CMDREJ and the count of draws. -/
def State.SameButFlags (s u : State) : Prop :=
  u = { s with done := u.done, accErr := u.accErr, cmdRej := u.cmdRej, draws := u.draws }

theorem unlessBusy_of_busy {s : State} (w : State) (hb : s.busy = true) : s.unlessBusy w = { s with accErr := true } :=
  if_pos hb

theorem writeCmd_of_busy {s : State} (v : Word) (hb : s.busy = true) : s.writeCmd v = { s with cmdRej := true } :=
  if_pos hb

/-- While BUSY a register write is refused, clears flags, or is ignored (R38, R39, R40, R43). -/
theorem regWrite_of_busy {s : State} (v : Word) (r : Register) (hb : s.busy = true) : s.SameButFlags (s.regWrite v r) := by
  cases r with
  | ctrl | srcAddr | srcLen | dstAddr | pubAddr | tagAddr =>
    rw [State.regWrite, unlessBusy_of_busy _ hb]
    rfl
  | cmd =>
    rw [State.regWrite, writeCmd_of_busy v hb]
    rfl
  | status =>
    rw [State.regWrite, writeStatus_eq]
    rfl
  | id | version | cap | errCode | outLen => rfl

/-- Settles O18: the buffer is written while IDLE only, and a register write while BUSY touches flags only. -/
theorem busyTransactionKeepsTheCommand : Obligations.BusyTransactionKeepsTheCommand := by
  intro s t hb
  change s.SameButFlags (s.hostStep t).2
  obtain h | ⟨hidle, -⟩ | ⟨-, n, h⟩ | ⟨r, v, -, h⟩ := hostStep_writeTxn_cases s t
  · rw [h]; rfl
  · simp [hb] at hidle
  · rw [h]; rfl
  · rw [h]; exact regWrite_of_busy v r hb

/-! ### The refusal flags -/

/-- `t` has every refusal flag that `s` has. -/
def State.KeepsRefusals (s t : State) : Prop :=
  (s.accErr = true → t.accErr = true) ∧ (s.cmdRej = true → t.cmdRej = true)

theorem unlessBusy_keepsRefusals {s w : State} (h : s.KeepsRefusals w) : s.KeepsRefusals (s.unlessBusy w) := by
  unfold State.unlessBusy
  split
  · exact ⟨fun _ => rfl, id⟩
  · exact h

theorem writeCmd_keepsRefusals (s : State) (v : Word) : s.KeepsRefusals (s.writeCmd v) := by
  unfold State.writeCmd
  split
  · exact ⟨id, fun _ => rfl⟩
  · exact ⟨id, id⟩

/-- A write of any register but STATUS keeps the refusal flags set (R39). -/
theorem regWrite_keepsRefusals (s : State) (v : Word) {r : Register} (hr : r ≠ .status) :
    s.KeepsRefusals (s.regWrite v r) := by
  cases r with
  | status => exact absurd rfl hr
  | cmd => exact writeCmd_keepsRefusals s v
  | ctrl | srcAddr | srcLen | dstAddr | pubAddr | tagAddr => exact unlessBusy_keepsRefusals ⟨id, id⟩
  | id | version | cap | errCode | outLen => exact ⟨id, id⟩

/-- Only a STATUS write can clear a refusal flag. -/
theorem hostStep_keepsRefusals (s : State) (t : Txn) :
    s.KeepsRefusals (s.hostStep t).2 ∨ ∃ v, t = Register.status.writeTxn v := by
  obtain h | ⟨-, m, h⟩ | ⟨-, n, h⟩ | ⟨r, v, ht, h⟩ := hostStep_writeTxn_cases s t
  · rw [h]; exact .inl ⟨id, id⟩
  · rw [h]; exact .inl ⟨id, id⟩
  · rw [h]; exact .inl ⟨fun _ => rfl, id⟩
  · by_cases hr : r = .status
    · exact .inr ⟨v, hr ▸ ht⟩
    · rw [h]; exact .inl (regWrite_keepsRefusals s v hr)

/-- A STATUS write keeps each refusal flag whose bit it does not write as 1 (R39). -/
theorem transact_status_refusals (s : State) (v : Word) :
    (s.accErr = true → (s.transact (Register.status.writeTxn v)).accErr = true ∨ v.getLsbD 8 = true) ∧
      (s.cmdRej = true → (s.transact (Register.status.writeTxn v)).cmdRej = true ∨ v.getLsbD 9 = true) := by
  simp only [State.transact, hostStep_writeTxn, State.regWrite, writeStatus_eq]
  refine ⟨fun h => ?_, fun h => ?_⟩
  · cases v.getLsbD 8 <;> simp [h]
  · cases v.getLsbD 9 <;> simp [h]

/-- The Engine's step leaves both refusal flags (R151). -/
theorem engineStep_keepsRefusals {s t : State} (h : s.engineStep = .next t) : s.KeepsRefusals t := by
  cases hb : s.busy with
  | false =>
    cases (engineStep_of_idle hb).symm.trans h
    exact ⟨id, id⟩
  | true =>
    obtain ⟨t', ht, hdone⟩ := engineStep_completesTo hb
    cases ht.symm.trans h
    rw [hdone.frame]
    exact ⟨id, id⟩

/-- The host address of a transaction the block decodes is `P_BASE` and the offset (R88). -/
theorem addr_of_offset {s : State} {addr n : Nat} (hin : ¬ s.outsideWindow addr) (hn : n < 0x20000)
    (h : BitVec.ofNat 17 (addr - s.pBase) = BitVec.ofNat 17 n) : addr = s.pBase + n := by
  have hsub := congrArg BitVec.toNat h
  rw [BitVec.toNat_ofNat, BitVec.toNat_ofNat] at hsub
  unfold State.outsideWindow at hin
  omega

/-- Settles O24: the Engine and every transaction but a STATUS write keep the flags. -/
theorem refusalFlagsAreSticky : Obligations.RefusalFlagsAreSticky := by
  intro s t hstep
  obtain ⟨rest, -, he⟩ | ⟨addr, size, access, rest, hs, hin, rfl⟩ | ⟨cells, rest, hs, -⟩ := step_cases hstep
  · obtain ⟨hacc, hrej⟩ := engineStep_keepsRefusals he
    exact ⟨fun h => .inl (hacc h), fun h => .inl (hrej h)⟩
  · obtain ⟨hacc, hrej⟩ | ⟨v, ht⟩ :=
      hostStep_keepsRefusals { s with sched := rest } ⟨BitVec.ofNat 17 (addr - s.pBase), size, access⟩
    · exact ⟨fun h => .inl (hacc h), fun h => .inl (hrej h)⟩
    · obtain ⟨hacc, hrej⟩ := transact_status_refusals { s with sched := rest } v
      rw [ht]
      obtain ⟨hoff, rfl, rfl⟩ := Txn.mk.inj ht
      obtain rfl := addr_of_offset hin (by decide) hoff
      exact ⟨fun h => (hacc h).imp_right fun hv => .inl ⟨v, rest, hs, hv⟩,
        fun h => (hrej h).imp_right fun hv => .inl ⟨v, rest, hs, hv⟩⟩
  · exact ⟨fun _ => .inr (.inr ⟨cells, rest, hs⟩), fun _ => .inr (.inr ⟨cells, rest, hs⟩)⟩

/-! ### The key registers hidden -/

/-- `s` with the bytes `k` in the key registers. -/
def State.withKeys (s : State) (k : List Byte) : State := { s with keys := k }

/-- States that differ at most in the bytes of the key registers are each other with those bytes exchanged. -/
theorem eq_withKeys_of_sameButKeys {s u : State} (h : s.sameButKeys u) : u = s.withKeys u.keys :=
  (congrArg (State.withKeys · u.keys) h).symm

@[simp] theorem withKeys_busy (s : State) (k : List Byte) : (s.withKeys k).busy = s.busy := rfl

@[simp] theorem withKeys_bufBytes (s : State) (k : List Byte) : (s.withKeys k).bufBytes = s.bufBytes := rfl

theorem unlessBusy_withKeys (s w : State) (k : List Byte) :
    (s.withKeys k).unlessBusy (w.withKeys k) = (s.unlessBusy w).withKeys k := by
  unfold State.unlessBusy
  rw [withKeys_busy]
  split <;> rfl

theorem writeCmd_withKeys (s : State) (k : List Byte) (v : Word) :
    (s.withKeys k).writeCmd v = (s.writeCmd v).withKeys k := by
  unfold State.writeCmd
  rw [withKeys_busy]
  split <;> rfl

theorem regWrite_withKeys (s : State) (k : List Byte) (v : Word) (r : Register) :
    (s.withKeys k).regWrite v r = (s.regWrite v r).withKeys k := by
  cases r with
  | status =>
    rw [State.regWrite, State.regWrite, writeStatus_eq, writeStatus_eq]
    rfl
  | cmd => exact writeCmd_withKeys s k v
  | ctrl | srcAddr | srcLen | dstAddr | pubAddr | tagAddr =>
    refine Eq.trans ?_ (unlessBusy_withKeys s _ k)
    rfl
  | id | version | cap | errCode | outLen => rfl

theorem readReg_withKeys (s : State) (k : List Byte) (off : Nat) : (s.withKeys k).readReg off = s.readReg off := by
  unfold State.readReg
  cases registerAt off with
  | none => rfl
  | some r => cases r <;> rfl

theorem registerTxn_withKeys (s : State) (k : List Byte) (t : Txn) :
    (s.withKeys k).registerTxn t = ((s.registerTxn t).1, (s.registerTxn t).2.withKeys k) := by
  unfold State.registerTxn
  split
  · rfl
  · cases t.access with
    | read => simp only [readReg_withKeys]
    | write v =>
      dsimp only [State.writeReg]
      cases registerAt t.off.toNat with
      | none => rfl
      | some r => exact congrArg (Prod.mk _) (regWrite_withKeys s k v r)

theorem refusedBufferTxn_withKeys (s : State) (k : List Byte) (access : Access) :
    (s.withKeys k).refusedBufferTxn access =
      ((s.refusedBufferTxn access).1, (s.refusedBufferTxn access).2.withKeys k) := by
  cases access <;> rfl

theorem bufferTxn_withKeys (s : State) (k : List Byte) (a : Nat) (size : Size) (access : Access) :
    (s.withKeys k).bufferTxn a size access =
      ((s.bufferTxn a size access).1, (s.bufferTxn a size access).2.withKeys k) := by
  cases access <;> rfl

theorem windowTxn_withKeys (s : State) (k : List Byte) (t : Txn) :
    (s.withKeys k).windowTxn t = ((s.windowTxn t).1, (s.windowTxn t).2.withKeys k) := by
  unfold State.windowTxn
  by_cases hm : t.off.toNat % t.size.toNat ≠ 0
  · simp [hm]
  · by_cases ha : t.off.toNat - 0x10000 ≥ s.bufBytes
    · simp [hm, ha]
    · cases hb : s.busy with
      | true => simp [hm, ha, hb, refusedBufferTxn_withKeys]
      | false => simp [hm, ha, hb, bufferTxn_withKeys]

/-- A transaction answers and acts alike whatever the key registers hold, and leaves them (R89). -/
theorem hostStep_withKeys (s : State) (k : List Byte) (t : Txn) :
    (s.withKeys k).hostStep t = ((s.hostStep t).1, (s.hostStep t).2.withKeys k) := by
  unfold State.hostStep
  split
  · exact registerTxn_withKeys s k t
  · exact windowTxn_withKeys s k t

theorem transact_withKeys (s : State) (k : List Byte) (t : Txn) :
    (s.withKeys k).transact t = (s.transact t).withKeys k := by
  rw [State.transact, hostStep_withKeys]
  rfl

theorem responses_withKeys (s : State) (k : List Byte) (ts : List Txn) :
    (s.withKeys k).responses ts = s.responses ts := by
  induction ts generalizing s with
  | nil => rfl
  | cons t ts ih => rw [State.responses, State.responses, hostStep_withKeys, transact_withKeys, ih]

theorem afterTxns_withKeys (s : State) (k : List Byte) (ts : List Txn) :
    (s.withKeys k).afterTxns ts = (s.afterTxns ts).withKeys k := by
  induction ts generalizing s with
  | nil => rfl
  | cons t ts ih =>
    simp only [State.afterTxns, List.foldl_cons, transact_withKeys] at ih ⊢
    exact ih _

theorem afterTxns_keys (s : State) (ts : List Txn) : (s.afterTxns ts).keys = s.keys := by
  induction ts generalizing s with
  | nil => rfl
  | cons t ts ih =>
    obtain ⟨hkeys, -⟩ := transact_keepsKeys s t
    exact (ih (s.transact t)).trans hkeys

/-- Settles O20: a list of transactions commutes with an exchange of the key bytes. -/
theorem keysHiddenFromTheBus : Obligations.KeysHiddenFromTheBus := by
  intro s u ts hsame
  have hu := eq_withKeys_of_sameButKeys hsame
  refine ⟨?_, ?_, afterTxns_keys s ts, afterTxns_keys u ts⟩
  · rw [hu, responses_withKeys]
  · rw [hu, afterTxns_withKeys]
    rfl

end Sys2Proof.Machine
end

section
/-! PROOFS. The buffer window (20_memory.md R80 to R87): byte strings as the lanes of a word, which transactions are bus
errors, what an access of the buffer does in either phase, and the writes of LOAD (30_encoding.md R120). -/

namespace Sys2Proof.Machine

/-! ### Byte strings as the lanes of a word (R9, R82) -/

/-- A string's number has no more digits to base 256 than the string has bytes. -/
theorem leNat_lt (b : List Byte) : leNat b < 256 ^ b.length := by
  induction b with
  | nil => decide
  | cons x b ih =>
    have hx := x.isLt
    rw [leNat, List.length_cons, Nat.pow_succ]
    omega

/-- Without its first digit, a string's number is the number of the rest. -/
theorem leNat_cons_div (x : Byte) (b : List Byte) : leNat (x :: b) / 256 = leNat b := by
  have hx := x.isLt
  rw [leNat]
  omega

/-- Byte i of a string, little-endian, is digit i of its number to base 256; past its end the digits are 0. -/
theorem leNat_digit (b : List Byte) (i : Nat) : BitVec.ofNat 8 (leNat b / 256 ^ i) = b.getD i 0 := by
  induction b generalizing i with
  | nil => simp [leNat]
  | cons x b ih =>
    cases i with
    | zero =>
      apply BitVec.eq_of_toNat_eq
      have hx := x.isLt
      simp only [leNat, BitVec.toNat_ofNat, Nat.pow_zero, Nat.div_one, List.getD_cons_zero]
      omega
    | succ i =>
      rw [Nat.pow_succ', ← Nat.div_div_eq_div_mul, leNat_cons_div, ih, List.getD_cons_succ]

/-- The bytes of a number, little-endian, are its digits to base 256. -/
theorem bytesLE_eq_map (n v : Nat) : bytesLE n v = (List.range n).map fun i => BitVec.ofNat 8 (v / 256 ^ i) := by
  induction n generalizing v with
  | zero => rfl
  | succ n ih =>
    simp [bytesLE, ih, List.range_succ_eq_map, Function.comp_def, Nat.pow_succ', Nat.div_div_eq_div_mul]

/-- Little-endian decoding loses nothing (R9). -/
theorem bytesLE_leNat (b : List Byte) : bytesLE b.length (leNat b) = b := by
  induction b with
  | nil => rfl
  | cons x b ih =>
    have hhead : BitVec.ofNat 8 (leNat (x :: b)) = x := by simpa using leNat_digit (x :: b) 0
    rw [List.length_cons, bytesLE, leNat_cons_div, ih, hhead]

/-- Lane i of a word is digit i of its number to base 256. -/
theorem lane_eq_digit (w : Word) (i : Nat) : w.extractLsb' (8 * i) 8 = BitVec.ofNat 8 (w.toNat / 256 ^ i) := by
  rw [BitVec.extractLsb', Nat.shiftRight_eq_div_pow, Nat.pow_mul]

/-- A string of at most four bytes, put on the lanes of a word, loses nothing. -/
theorem toNat_ofNat_leNat {b : List Byte} (h : b.length ≤ 4) : (BitVec.ofNat 32 (leNat b)).toNat = leNat b := by
  rw [BitVec.toNat_ofNat]
  exact Nat.mod_eq_of_lt ((leNat_lt b).trans_le (Nat.pow_le_pow_right (by decide) h))

theorem Size.toNat_pos (size : Size) : 0 < size.toNat := by cases size <;> decide

theorem Size.toNat_le (size : Size) : size.toNat ≤ 4 := by cases size <;> decide

/-- A string of `size` bytes put on the lanes of a word is what those lanes store. -/
theorem bytesLE_lanes {size : Size} {b : List Byte} (h : b.length = size.toNat) :
    bytesLE size.toNat (BitVec.ofNat 32 (leNat b)).toNat = b := by
  rw [← h, toNat_ofNat_leNat (h ▸ size.toNat_le), bytesLE_leNat]

/-! ### Bus errors (R84, R85) -/

/-- The transaction is a bus error: in the register space it is not a 32-bit access at a multiple of 4, or in the window
it is not naturally aligned. -/
def Txn.busError (t : Txn) : Prop :=
  (t.off.toNat < 0x10000 ∧ (t.size ≠ .word ∨ t.off.toNat % 4 ≠ 0)) ∨
    (0x10000 ≤ t.off.toNat ∧ t.off.toNat % t.size.toNat ≠ 0)

/-- A byte access is always aligned, so only halfwords and words can be misaligned (R85). -/
theorem misaligned_iff (size : Size) (n : Nat) :
    n % size.toNat ≠ 0 ↔ (size = .half ∧ n % 2 ≠ 0) ∨ (size = .word ∧ n % 4 ≠ 0) := by
  cases size <;> simp [Size.toNat, Nat.mod_one]

@[simp] theorem slverr_code (access : Access) : access.slverr.code = .slverr := by cases access <;> rfl

theorem slverr_rdata (access : Access) : access.slverr.rdata = if access = .read then some 0 else none := by
  cases access <;> rfl

theorem okay_zero (access : Access) : access.okay 0 = ⟨.okay, if access = .read then some 0 else none⟩ := by
  cases access <;> rfl

/-- A bus error has no effect but its response (R84, R85). -/
theorem hostStep_of_busError {s : State} {t : Txn} (h : t.busError) : s.hostStep t = (t.access.slverr, s) := by
  obtain ⟨hspace, hbad⟩ | ⟨hwindow, hbad⟩ := h
  · rw [State.hostStep, if_pos hspace, State.registerTxn, if_pos hbad]
  · rw [State.hostStep, if_neg (by omega), State.windowTxn, if_pos hbad]

/-- An aligned transaction at or past the end of the buffer reads 0 and writes nothing (R81). -/
theorem hostStep_beyondBuffer {s : State} {t : Txn} (hw : 0x10000 ≤ t.off.toNat) (hm : t.off.toNat % t.size.toNat = 0)
    (ha : s.bufBytes ≤ t.off.toNat - 0x10000) : s.hostStep t = (t.access.okay 0, s) := by
  rw [State.hostStep, if_neg (by omega), State.windowTxn, if_neg (by omega), if_pos ha]

/-- An aligned transaction that starts in the buffer reaches it while IDLE and is refused while BUSY (R81, R87). -/
theorem hostStep_inBuffer {s : State} {t : Txn} (hw : 0x10000 ≤ t.off.toNat) (hm : t.off.toNat % t.size.toNat = 0)
    (ha : t.off.toNat - 0x10000 < s.bufBytes) :
    s.hostStep t =
      if s.busy then s.refusedBufferTxn t.access else s.bufferTxn (t.off.toNat - 0x10000) t.size t.access := by
  rw [State.hostStep, if_neg (by omega), State.windowTxn, if_neg (by omega), if_neg (by omega)]

/-- Every transaction that is no bus error answers OKAY. -/
theorem hostStep_okay {s : State} {t : Txn} (h : ¬ t.busError) : (s.hostStep t).1.code = .okay := by
  by_cases hspace : t.off.toNat < 0x10000
  · have hgood : ¬ (t.size ≠ .word ∨ t.off.toNat % 4 ≠ 0) := fun hbad => h (.inl ⟨hspace, hbad⟩)
    rw [State.hostStep, if_pos hspace, State.registerTxn, if_neg hgood]
    cases t.access <;> rfl
  · have hw : 0x10000 ≤ t.off.toNat := Nat.le_of_not_lt hspace
    have hm : t.off.toNat % t.size.toNat = 0 := by_contra fun hbad => h (.inr ⟨hw, hbad⟩)
    obtain ha | ha := Nat.lt_or_ge (t.off.toNat - 0x10000) s.bufBytes
    · rw [hostStep_inBuffer hw hm ha]
      cases s.busy <;> cases t.access <;> rfl
    · rw [hostStep_beyondBuffer hw hm ha, okay_zero]

theorem hostStep_slverr_iff (s : State) (t : Txn) : (s.hostStep t).1.code = .slverr ↔ t.busError := by
  by_cases h : t.busError
  · simp [hostStep_of_busError h, h]
  · simp [hostStep_okay h, h]

/-- Settles O14: SLVERR is the answer to bus errors only, and to all of them. -/
theorem busErrorsChangeNothing : Obligations.BusErrorsChangeNothing := by
  intro s t
  rw [← misaligned_iff]
  refine ⟨hostStep_slverr_iff s t, fun h => ?_⟩
  rw [hostStep_of_busError ((hostStep_slverr_iff s t).1 h)]
  exact ⟨rfl, slverr_rdata t.access⟩

/-- Settles O15: the buffer's size is a multiple of every access's size, so an aligned access never crosses its end. -/
theorem windowMapping : Obligations.WindowMapping := by
  intro s t hw hm
  refine ⟨fun ha => aligned_fits s ha (by rwa [Nat.add_sub_cancel' hw]), fun ha => ?_⟩
  rw [hostStep_beyondBuffer hw hm ha, okay_zero]

/-! ### An access of the buffer at an address (R82, R87) -/

/-- The largest buffer fills its half of the window (R7, R80). -/
theorem bufBytes_le (s : State) : s.bufBytes ≤ 0x10000 :=
  Nat.pow_le_pow_right (j := 16) (by decide) (by have := s.cfg.sizeStep.isLt; omega)

/-- The transaction that accesses the buffer at address `a` (R81). -/
def bufAccess (a : Nat) (size : Size) (access : Access) : Txn := ⟨BitVec.ofNat 17 (0x10000 + a), size, access⟩

/-- An aligned access inside the buffer reaches its bytes while IDLE and is refused while BUSY. -/
theorem hostStep_bufAccess {s : State} {a : Nat} {size : Size} (access : Access) (hfit : s.fits a size.toNat)
    (hm : a % size.toNat = 0) :
    s.hostStep (bufAccess a size access) = if s.busy then s.refusedBufferTxn access else s.bufferTxn a size access := by
  have hpos := size.toNat_pos
  have hle := bufBytes_le s
  have hin : a < s.bufBytes := by omega
  have hoff : (bufAccess a size access).off.toNat = 0x10000 + a := by
    rw [bufAccess, BitVec.toNat_ofNat]
    omega
  have halign : (0x10000 + a) % size.toNat = 0 := by cases size <;> simp only [Size.toNat] at hm ⊢ <;> omega
  have h := hostStep_inBuffer (s := s) (t := bufAccess a size access) (by omega) (hoff ▸ halign) (by omega)
  rwa [hoff, Nat.add_sub_cancel_left] at h

theorem hostStep_bufAccess_of_idle {s : State} {a : Nat} {size : Size} (access : Access) (hb : s.busy = false)
    (hfit : s.fits a size.toNat) (hm : a % size.toNat = 0) :
    s.hostStep (bufAccess a size access) = s.bufferTxn a size access := by
  rw [hostStep_bufAccess access hfit hm, hb, if_neg (by decide)]

theorem hostStep_bufAccess_of_busy {s : State} {a : Nat} {size : Size} (access : Access) (hb : s.busy = true)
    (hfit : s.fits a size.toNat) (hm : a % size.toNat = 0) :
    s.hostStep (bufAccess a size access) = s.refusedBufferTxn access := by
  rw [hostStep_bufAccess access hfit hm, hb, if_pos rfl]

/-- Lane i of a read word is byte i of the bytes read, and 0 past them. -/
theorem lane_read (m : Memory) (a i : Nat) (size : Size) :
    (BitVec.ofNat 32 (leNat (m.read a size.toNat))).extractLsb' (8 * i) 8 =
      if i < size.toNat then m.readByte (a + i) else 0 := by
  rw [lane_eq_digit, toNat_ofNat_leNat (by simpa using size.toNat_le), leNat_digit, read_eq_map]
  split <;> simp [*]

/-- The lanes of a written word are the bytes stored. -/
theorem bytesLE_eq_lanes (n : Nat) (w : Word) :
    bytesLE n w.toNat = (List.range n).map fun i => w.extractLsb' (8 * i) 8 := by
  simp only [bytesLE_eq_map, lane_eq_digit]

/-- Settles O16: the lanes of a word are the little-endian digits that the buffer transaction reads and stores. -/
theorem bufferLanes : Obligations.BufferLanes := by
  intro s a size hb hw hfit hm
  refine ⟨⟨_, hostStep_bufAccess_of_idle .read hb hfit hm, fun i _ => lane_read s.buf a i size⟩,
    fun w => ⟨_, hostStep_bufAccess_of_idle (.write w) hb hfit hm, rfl, ?_⟩⟩
  rw [← bytesLE_eq_lanes]
  exact memWrite_storedOver s hw a _

/-- Settles O17: while BUSY the buffer transaction is refused. -/
theorem busyBufferAccessIsRefused : Obligations.BusyBufferAccessIsRefused :=
  fun _ _ _ hb hfit hm => ⟨⟨_, hostStep_bufAccess_of_busy .read hb hfit hm⟩,
    fun w => hostStep_bufAccess_of_busy (.write w) hb hfit hm⟩

/-! ### LOAD (R120) -/

/-- Two stores, the second right behind the first, are one store. -/
theorem write_append (m : Memory) (a : Nat) (v w : List Byte) :
    m.write a (v ++ w) = (m.write a v).write (a + v.length) w := by
  induction v generalizing m a with
  | nil => rfl
  | cons b v ih =>
    rw [List.cons_append, Memory.write, Memory.write, ih, List.length_cons, Nat.add_right_comm, Nat.add_assoc]

/-- A write of `W(a)` inside the buffer is the access of the buffer at `a` (R81, R119). -/
theorem transaction_write_win {s : State} {a : Nat} (size : Size) (v : Word) (ha : a < s.bufBytes) :
    (HostStmt.write (.win a) size v).transaction = some (bufAccess a size (.write v)) := by
  simp [HostStmt.transaction, decodedOffset_win (ha.trans_le (bufBytes_le s)), bufAccess]

/-- A write of a string that fills its lanes stores the string, while IDLE (R82). -/
theorem transact_store {s : State} {a : Nat} {size : Size} {b : List Byte} (hb : s.busy = false)
    (hlen : b.length = size.toNat) (hfit : s.fits a b.length) (hm : a % size.toNat = 0) :
    s.transact (bufAccess a size (.write (BitVec.ofNat 32 (leNat b)))) =
      { s.memWrite a b with resp := some ⟨.okay, none⟩ } := by
  rw [State.transact, hostStep_bufAccess_of_idle _ hb (hlen ▸ hfit) hm, State.bufferTxn, bytesLE_lanes hlen]
  rfl

/-- LOAD begins with one aligned write of the string's first bytes, and goes on with the rest behind them. -/
theorem hostLoadFrom_cons (fuel a : Nat) (b : Byte) (bs : List Byte) :
    ∃ size chunk rest, b :: bs = chunk ++ rest ∧ chunk.length = size.toNat ∧ a % size.toNat = 0 ∧
      hostLoadFrom (fuel + 1) a (b :: bs) =
        .write (.win a) size (BitVec.ofNat 32 (leNat chunk)) :: hostLoadFrom fuel (a + chunk.length) rest := by
  by_cases hword : wholeWordAt a (bs.length + 1) = true
  · obtain ⟨hm, hlen⟩ : a % 4 = 0 ∧ 3 ≤ bs.length := by simpa [wholeWordAt] using hword
    have hfour : ((b :: bs).take 4).length = 4 := by simp; omega
    refine ⟨.word, (b :: bs).take 4, bs.drop 3, (List.take_append_drop 4 (b :: bs)).symm, hfour, hm, ?_⟩
    rw [hostLoadFrom, if_pos hword, hfour]
  · refine ⟨.byte, [b], bs, rfl, rfl, Nat.mod_one a, ?_⟩
    rw [hostLoadFrom, if_neg hword]
    simp [leNat]

/-- The transactions of LOAD are one store of the whole string, but for the response recorded. -/
theorem afterTxns_hostLoadFrom (fuel : Nat) (s : State) (a : Nat) (v : List Byte) (hb : s.busy = false)
    (hfit : s.fits a v.length) (hfuel : v.length ≤ fuel) :
    ∃ r, s.afterTxns ((hostLoadFrom fuel a v).filterMap HostStmt.transaction) =
      { s.memWrite a v with resp := r } := by
  induction fuel generalizing s a v with
  | zero =>
    obtain rfl := List.length_eq_zero_iff.1 (Nat.le_zero.1 hfuel)
    exact ⟨s.resp, rfl⟩
  | succ fuel ih =>
    cases v with
    | nil => exact ⟨s.resp, rfl⟩
    | cons b bs =>
      obtain ⟨size, chunk, rest, hv, hlen, hm, hload⟩ := hostLoadFrom_cons fuel a b bs
      have hpos := size.toNat_pos
      rw [hv, List.length_append] at hfit hfuel
      have hhead := transaction_write_win (s := s) size (BitVec.ofNat 32 (leNat chunk)) (show a < s.bufBytes by omega)
      obtain ⟨r, hr⟩ := ih { s.memWrite a chunk with resp := some ⟨.okay, none⟩ } (a + chunk.length) rest hb
        (le_of_eq_of_le (Nat.add_assoc a _ _) hfit) (by omega)
      refine ⟨r, ?_⟩
      rw [hload, List.filterMap_cons_some hhead, State.afterTxns, List.foldl_cons, transact_store hb hlen (by omega) hm]
      refine hr.trans ?_
      rw [hv, State.memWrite, State.memWrite, State.memWrite, write_append]

/-- Settles O21: LOAD's writes are one store of the string. -/
theorem hostLoadStoresTheBytes : Obligations.HostLoadStoresTheBytes := by
  intro s a v hb hw hfit
  obtain ⟨r, hr⟩ := afterTxns_hostLoadFrom v.length s a v hb hfit le_rfl
  refine ⟨_, rfl, ?_, ?_⟩
  · rw [hostLoad, hr]; rfl
  · rw [hostLoad, hr]; exact memWrite_storedOver s hw a v

end Sys2Proof.Machine
end

section
/-! PROOFS. Host traffic and a command in flight (20_memory.md R87, R90, R91, 40_host_interface.md R152): no command
reads what a transaction can change while BUSY, so the Engine's turn commutes with the Host's traffic. -/

namespace Sys2Proof.Machine

/-! ### What traffic leaves while a command is in flight -/

/-- `s` with DONE as given, and with the refusal flags, the last response and the count of draws of `w`. -/
def State.withTraffic (s : State) (d : Bool) (w : State) : State :=
  { s with done := d, accErr := w.accErr, cmdRej := w.cmdRej, resp := w.resp, draws := w.draws }

/-- A transaction while BUSY changes only what traffic changes (R90). -/
theorem transact_of_busy {s : State} (t : Txn) (hb : s.busy = true) :
    s.transact t = s.withTraffic (s.transact t).done (s.transact t) := by
  have h : s.SameButFlags (s.hostStep t).2 := busyTransactionKeepsTheCommand s t hb
  unfold State.transact
  rw [h]
  rfl

/-- So does any list of them: BUSY stays, and each transaction finds the command in flight. -/
theorem afterTxns_of_busy {s : State} (ts : List Txn) (hb : s.busy = true) :
    s.afterTxns ts = s.withTraffic (s.afterTxns ts).done (s.afterTxns ts) := by
  induction ts generalizing s with
  | nil => rfl
  | cons t ts ih =>
    have ht := transact_of_busy t hb
    have hbusy : (s.transact t).busy = true := by rw [ht]; exact hb
    have hts : s.afterTxns (t :: ts) = (s.transact t).afterTxns ts := rfl
    rw [hts, ih hbusy, ht]
    rfl

/-! ### The Engine does not read it

What a command reads of a state is the same under traffic, and what it writes leaves the traffic's fields in place; a
completion raises DONE whatever it was (R151). -/

section
variable (s : State) (d : Bool) (w : State)

@[simp] theorem withTraffic_srcAddr : (s.withTraffic d w).srcAddr = s.srcAddr := rfl
@[simp] theorem withTraffic_dstAddr : (s.withTraffic d w).dstAddr = s.dstAddr := rfl
@[simp] theorem withTraffic_len : (s.withTraffic d w).len = s.len := rfl
@[simp] theorem withTraffic_tagLen : (s.withTraffic d w).tagLen = s.tagLen := rfl
@[simp] theorem withTraffic_pubRegion : (s.withTraffic d w).pubRegion = s.pubRegion := rfl
@[simp] theorem withTraffic_tagRegion : (s.withTraffic d w).tagRegion = s.tagRegion := rfl
@[simp] theorem withTraffic_encodedLen : (s.withTraffic d w).encodedLen = s.encodedLen := rfl
@[simp] theorem withTraffic_sealedLen : (s.withTraffic d w).sealedLen = s.sealedLen := rfl
@[simp] theorem withTraffic_sealedPrefix : (s.withTraffic d w).sealedPrefix = s.sealedPrefix := rfl
@[simp] theorem withTraffic_openedLen : (s.withTraffic d w).openedLen = s.openedLen := rfl
@[simp] theorem withTraffic_openPaddingCode : (s.withTraffic d w).openPaddingCode = s.openPaddingCode := rfl
@[simp] theorem withTraffic_srcRegion (n : Nat) : (s.withTraffic d w).srcRegion n = s.srcRegion n := rfl
@[simp] theorem withTraffic_dstRegion (n : Nat) : (s.withTraffic d w).dstRegion n = s.dstRegion n := rfl
@[simp] theorem withTraffic_readRegion (r : Region) : (s.withTraffic d w).readRegion r = s.readRegion r := rfl
@[simp] theorem withTraffic_tagOf (m : List Byte) : (s.withTraffic d w).tagOf m = s.tagOf m := rfl
@[simp] theorem withTraffic_encrypt (p : List Byte) : (s.withTraffic d w).encrypt p = s.encrypt p := rfl
@[simp] theorem withTraffic_decrypt (c : List Byte) : (s.withTraffic d w).decrypt c = s.decrypt c := rfl
@[simp] theorem withTraffic_memRead (a n : Nat) : (s.withTraffic d w).memRead a n = s.memRead a n := rfl

@[simp] theorem memWrite_withTraffic (a : Nat) (v : List Byte) :
    (s.withTraffic d w).memWrite a v = (s.memWrite a v).withTraffic d w := rfl

@[simp] theorem keyLoad_withTraffic (k : List Byte) :
    (s.withTraffic d w).keyLoad k = (s.keyLoad k).withTraffic d w := rfl

@[simp] theorem complete_withTraffic (n : Nat) :
    (s.withTraffic d w).complete n = (s.complete n).withTraffic true w := rfl

@[simp] theorem raiseErr_withTraffic (e : ErrCode) :
    (s.withTraffic d w).raiseErr e = (s.raiseErr e).withTraffic true w := rfl

@[simp] theorem autoClear_withTraffic : (s.withTraffic d w).autoClear = s.autoClear.withTraffic d w :=
  (apply_ite (State.withTraffic · d w) (s.autoclr = true) s.keyClear s).symm

@[simp] theorem failClosed_withTraffic (out : Region) (e : ErrCode) :
    (s.withTraffic d w).failClosed out e = (s.failClosed out e).withTraffic true w := rfl

@[simp] theorem unpadTo_withTraffic (out : Region) (c : List Byte) (bad : ErrCode) :
    (s.withTraffic d w).unpadTo out c bad = (s.unpadTo out c bad).withTraffic true w := by
  unfold State.unpadTo
  cases pkcs7Check c <;> rfl

/-- No check reads what traffic changes (R154). -/
theorem checksOf_withTraffic (i : Instr) : checksOf i (s.withTraffic d w) = checksOf i s := by
  cases i <;> rfl

theorem openBody_withTraffic : openBody (s.withTraffic d w) = (openBody s).withTraffic true w := by
  have hc : openChecks (s.withTraffic d w) = openChecks s := checksOf_withTraffic s d w .openPkt
  unfold openBody
  rw [hc]
  cases firstFail (openChecks s) with
  | some e => rfl
  | none => simp [apply_ite (State.withTraffic · true w)]

/-- A command in flight completes alike before and after traffic, which it leaves in the state it completes to. -/
theorem exec_withTraffic (i : Instr) :
    ∃ t, exec i s = .next t ∧ exec i (s.withTraffic d w) = .next (t.withTraffic true w) := by
  have hc : firstFail (checksOf i (s.withTraffic d w)) = firstFail (checksOf i s) :=
    congrArg firstFail (checksOf_withTraffic s d w i)
  cases hf : firstFail (checksOf i s) with
  | some e =>
    refine ⟨_, exec_of_firstFail hf, (exec_of_firstFail (hc.trans hf)).trans ?_⟩
    cases isProtocol i with
    | false => rfl
    | true => simp
  | none =>
    rw [hf] at hc
    cases i with
    | nop | keyclear => exact ⟨_, rfl, rfl⟩
    | kdf x =>
      rw [checksOf] at hf hc
      cases x <;> simp [exec, execKdf, hf, hc]
    | macVerify =>
      rw [checksOf] at hf hc
      cases htag : ctEq (s.tagOf (s.readRegion (s.srcRegion s.len))) (s.readRegion s.tagRegion) <;>
        simp [exec, execMacVerify, hf, hc, htag]
    | openPkt => exact ⟨_, rfl, by simp [exec, execOpen, openBody_withTraffic]⟩
    | keyload | aesEnc | aesDec | macGen | pktEncode | pktDecode | sealPkt =>
      rw [checksOf] at hf hc
      simp [exec, execKeyload, execAesEnc, execAesDec, execMacGen, execPktEncode, execPktDecode, execSeal, sealBody,
        hf, hc]

end

/-- So does the word in flight, legal or not: traffic does not touch CMD. -/
theorem engineStep_withTraffic {s : State} (hb : s.busy = true) (d : Bool) (w : State) :
    ∃ t, s.engineStep = .next t ∧ (s.withTraffic d w).engineStep = .next (t.withTraffic true w) := by
  have hb' : (s.withTraffic d w).busy = true := hb
  cases hd : decode s.cmd with
  | error r => exact ⟨_, engineStep_of_decode_error hb hd, engineStep_of_decode_error hb' hd⟩
  | ok i =>
    rw [engineStep_of_decode_ok hb hd, engineStep_of_decode_ok hb' hd]
    exact exec_withTraffic s d w i

theorem engineStep_done {s t : State} (hb : s.busy = true) (h : s.engineStep = .next t) : t.done = true := by
  obtain ⟨t', ht', hc⟩ := engineStep_completesTo hb
  cases h.symm.trans ht'
  rw [hc.frame]

/-- Settles O19: the turn after the traffic is the turn before it, but for what the traffic left; DONE rises in both. -/
theorem hostTrafficCannotRaceACommand : Obligations.HostTrafficCannotRaceACommand := by
  intro s ts hb
  obtain ⟨t, ht, hu⟩ := engineStep_withTraffic hb (s.afterTxns ts).done (s.afterTxns ts)
  rw [← afterTxns_of_busy ts hb] at hu
  refine ⟨t, _, ht, hu, ?_⟩
  rw [State.withTraffic, ← engineStep_done hb ht]

end Sys2Proof.Machine
end

section
/-! PROOFS. The command word (30_encoding.md R110 to R113): its three fields, the decoder by the fields, which words are
commands, and an illegal word written to CMD. -/

namespace Sys2Proof.Machine

/-! ### The fields of a word (R110) -/

theorem opcodeOf_toNat (w : Word) : (opcodeOf w).toNat = w.toNat % 2 ^ 8 := by simp [opcodeOf]

theorem modOf_toNat (w : Word) : (modOf w).toNat = w.toNat / 2 ^ 8 % 2 ^ 8 := by simp [modOf, Nat.shiftRight_eq_div_pow]

theorem rsvdOf_toNat (w : Word) : (rsvdOf w).toNat = w.toNat / 2 ^ 16 := by
  simp [rsvdOf, Nat.shiftRight_eq_div_pow]
  omega

/-- OPCODE, MOD and RSVD are the whole word. -/
theorem word_eq_of_fields {v w : Word} (ho : opcodeOf v = opcodeOf w) (hm : modOf v = modOf w)
    (hr : rsvdOf v = rsvdOf w) : v = w := by
  have ho' := congrArg BitVec.toNat ho
  have hm' := congrArg BitVec.toNat hm
  have hr' := congrArg BitVec.toNat hr
  rw [opcodeOf_toNat, opcodeOf_toNat] at ho'
  rw [modOf_toNat, modOf_toNat] at hm'
  rw [rsvdOf_toNat, rsvdOf_toNat] at hr'
  exact BitVec.eq_of_toNat_eq (by omega)

/-! ### The opcode map (R112) and the bits of MOD -/

/-- The opcode map reads a command from the OPCODE of its own word, and X from MOD[0]. -/
theorem opcodeInstr_eq_some {n : Nat} {x : Bool} {i : Instr} (h : opcodeInstr n x = some i) :
    n = (opcodeOf (encode i)).toNat ∧ ∀ y, i = .kdf y → y = x := by
  unfold opcodeInstr at h
  split at h
  case h_2 => cases h; cases x <;> simp [opcodeOf, encode]
  all_goals cases h <;> simp [opcodeOf, encode]

/-- The opcode map has a command exactly for the assigned opcodes. -/
theorem opcodeInstr_assigned (n : Nat) (x : Bool) : (∃ i, opcodeInstr n x = some i) ↔ n ∈ assignedOpcodes := by
  constructor
  · rintro ⟨i, h⟩
    obtain ⟨rfl, -⟩ := opcodeInstr_eq_some h
    cases i with
    | kdf y => cases y <;> decide
    | _ => decide
  · intro h
    simp only [assignedOpcodes, List.mem_cons, List.not_mem_nil, or_false] at h
    obtain rfl | rfl | rfl | rfl | rfl | rfl | rfl | rfl | rfl | rfl | rfl | rfl := h <;> exact ⟨_, rfl⟩

/-- MOD[0] is defined for OPCODE 0x01, and no bit of MOD for another (R110, R113). -/
theorem definedMod_of_opcodeInstr {n : Nat} {x : Bool} {i : Instr} (h : opcodeInstr n x = some i) :
    definedMod i = if n = 0x01 then 0x01 else 0x00 := by
  unfold opcodeInstr at h
  split at h <;> cases h <;> rfl

theorem noBitOutside_zero_iff (m : BitVec 8) : m &&& ~~~(0x00 : BitVec 8) = 0 ↔ m.toNat = 0 := by
  rw [show ~~~(0x00 : BitVec 8) = BitVec.allOnes 8 from rfl, BitVec.and_allOnes]
  exact BitVec.toNat_inj.symm

theorem noBitOutside_one_iff (m : BitVec 8) : m &&& ~~~(0x01 : BitVec 8) = 0 ↔ m.toNat / 2 = 0 := by
  revert m
  decide

/-- A MOD with no bit but bit 0 is that bit. -/
theorem eq_of_lt_two {m : BitVec 8} (h : m.toNat / 2 = 0) : m = if m.getLsbD 0 then 0x01 else 0x00 := by
  revert m
  decide

/-- A word whose OPCODE and MOD[0] give the command, with no other bit of MOD set, has the MOD of the command's word. -/
theorem modOf_eq_of_opcodeInstr {m : BitVec 8} {n : Nat} {i : Instr} (h : opcodeInstr n (m.getLsbD 0) = some i)
    (hm : m &&& ~~~definedMod i = 0) : m = modOf (encode i) := by
  cases i with
  | kdf x =>
    obtain ⟨-, hx⟩ := opcodeInstr_eq_some h
    rw [eq_of_lt_two ((noBitOutside_one_iff m).1 hm), ← hx x rfl]
    cases x <;> rfl
  | _ => exact BitVec.eq_of_toNat_eq ((noBitOutside_zero_iff m).1 hm)

/-! ### The decoder (R112, R113) -/

/-- The decoder by the fields of the word. -/
theorem decode_eq_ok_iff (w : Word) (i : Instr) :
    decode w = .ok i ↔ rsvdOf w = 0 ∧ opcodeInstr (opcodeOf w).toNat ((modOf w).getLsbD 0) = some i ∧
      modOf w &&& ~~~definedMod i = 0 := by
  unfold decode
  by_cases hr : rsvdOf w = 0
  case neg =>
    rw [if_pos hr]
    exact ⟨nofun, fun ⟨h, _⟩ => absurd h hr⟩
  case pos =>
    rw [if_neg (not_not.2 hr)]
    cases ho : opcodeInstr (opcodeOf w).toNat ((modOf w).getLsbD 0) with
    | none => exact ⟨nofun, nofun⟩
    | some j =>
      dsimp only
      by_cases hm : modOf w &&& ~~~definedMod j = 0
      · rw [if_neg (not_not.2 hm)]
        constructor
        · rintro ⟨⟩
          exact ⟨hr, rfl, hm⟩
        · rintro ⟨-, ⟨⟩, -⟩
          rfl
      · rw [if_pos hm]
        refine ⟨nofun, ?_⟩
        rintro ⟨-, ⟨⟩, h⟩
        exact absurd h hm

theorem rsvdOf_encode (i : Instr) : rsvdOf (encode i) = 0 := by
  cases i with
  | kdf x => cases x <;> rfl
  | _ => rfl

/-- Settles O1: a word that decodes has the three fields of its command's own word, and so is that word. -/
theorem decodeEncodeAgree : Obligations.DecodeEncodeAgree := by
  intro w i
  constructor
  · intro h
    obtain ⟨hr, ho, hm⟩ := (decode_eq_ok_iff w i).1 h
    obtain ⟨hop, -⟩ := opcodeInstr_eq_some ho
    exact word_eq_of_fields (BitVec.eq_of_toNat_eq hop) (modOf_eq_of_opcodeInstr ho hm) (hr.trans (rsvdOf_encode i).symm)
  · rintro rfl
    exact decode_encode i

/-- Settles O4: the thirteen words are encodings, and each of the others breaks one condition. -/
theorem decodedWords : Obligations.DecodedWords :=
  ⟨decode_encode .nop, decode_encode (.kdf false), decode_encode (.kdf true), decode_encode .keyload,
    decode_encode .keyclear, decode_encode .aesEnc, decode_encode .aesDec, decode_encode .macGen,
    decode_encode .macVerify, decode_encode .pktEncode, decode_encode .pktDecode, decode_encode .sealPkt,
    decode_encode .openPkt, rfl, rfl, rfl, rfl⟩

/-! ### The legal words (R113) -/

theorem legalWord_iff (w : Word) :
    legalWord w = true ↔
      w.toNat / 2 ^ 16 = 0 ∧ w.toNat % 2 ^ 8 ∈ assignedOpcodes ∧
        (w.toNat % 2 ^ 8 ≠ 0x01 → w.toNat / 2 ^ 8 % 2 ^ 8 = 0) ∧
        (w.toNat % 2 ^ 8 = 0x01 → w.toNat / 2 ^ 9 % 2 ^ 7 = 0) := by
  simp only [legalWord, rsvdClear, opcodeAssigned, modClear, kdfModClear, Bool.and_eq_true, Bool.or_eq_true, beq_iff_eq,
    bne_iff_ne, List.contains_iff_mem, and_assoc]
  tauto

/-- The two conditions of R113 on MOD are the decoder's one: no bit of MOD set that OPCODE does not define. -/
theorem modBits_iff {w : Word} {x : Bool} {i : Instr} (h : opcodeInstr (opcodeOf w).toNat x = some i) :
    modOf w &&& ~~~definedMod i = 0 ↔
      (w.toNat % 2 ^ 8 ≠ 0x01 → w.toNat / 2 ^ 8 % 2 ^ 8 = 0) ∧
        (w.toNat % 2 ^ 8 = 0x01 → w.toNat / 2 ^ 9 % 2 ^ 7 = 0) := by
  rw [definedMod_of_opcodeInstr h, opcodeOf_toNat]
  by_cases h1 : w.toNat % 2 ^ 8 = 0x01
  · have hhalf : w.toNat / 2 ^ 9 % 2 ^ 7 = (modOf w).toNat / 2 := by rw [modOf_toNat]; omega
    simp only [h1, if_true, ne_eq, not_true, false_imp_iff, true_and, true_imp_iff, hhalf]
    exact noBitOutside_one_iff (modOf w)
  · simp only [h1, if_false, ne_eq, not_false_iff, true_imp_iff, false_imp_iff, and_true, ← modOf_toNat]
    exact noBitOutside_zero_iff (modOf w)

/-- The decoder accepts exactly the legal words. -/
theorem decode_ok_iff_legalWord (w : Word) : (∃ i, decode w = .ok i) ↔ legalWord w = true := by
  rw [legalWord_iff, ← rsvdOf_toNat, ← opcodeInstr_assigned _ ((modOf w).getLsbD 0), ← opcodeOf_toNat]
  constructor
  · rintro ⟨i, h⟩
    obtain ⟨hr, ho, hm⟩ := (decode_eq_ok_iff w i).1 h
    exact ⟨congrArg BitVec.toNat hr, ⟨i, ho⟩, opcodeOf_toNat w ▸ (modBits_iff ho).1 hm⟩
  · rintro ⟨hr, ⟨i, ho⟩, hm⟩
    exact ⟨i, (decode_eq_ok_iff w i).2 ⟨BitVec.eq_of_toNat_eq hr, ho, (modBits_iff ho).2 (opcodeOf_toNat w ▸ hm)⟩⟩

/-- Settles O2: the conditions are those of a legal word. -/
theorem legalWordsAreDecoded : Obligations.LegalWordsAreDecoded :=
  fun w => (decode_ok_iff_legalWord w).trans (legalWord_iff w)

/-! ### An illegal word written to CMD (R113) -/

theorem decode_error_of_not_legalWord {w : Word} (h : ¬ legalWord w = true) : ∃ r, decode w = .error r := by
  cases hd : decode w with
  | error r => exact ⟨r, rfl⟩
  | ok i => exact absurd ((decode_ok_iff_legalWord w).1 ⟨i, hd⟩) h

/-- Settles O3: the write is accepted as any is, and the Engine's turn finds no command in the word accepted. -/
theorem illegalWordCompletesWithItsCode : Obligations.IllegalWordCompletesWithItsCode := by
  intro s w rest hb hill hs
  have hlegal : ¬ legalWord w = true := by
    rw [legalWord_iff]
    rintro ⟨hrsvd, hop, hmod, hkdf⟩
    obtain h | ⟨h1, h⟩ | ⟨h1, h⟩ | h := hill
    · exact h hop
    · exact h (hmod h1)
    · exact h (hkdf h1)
    · exact h hrsvd
  obtain ⟨r, hd⟩ := decode_error_of_not_legalWord hlegal
  refine ⟨_, (step_of_registerWrite (r := .cmd) hs).trans
    (congrArg _ (transact_cmd_of_idle (s := { s with sched := .engine :: rest }) w hb)), rfl, ?_, rfl⟩
  rw [step_of_engineTurn (.inl rfl)]
  exact engineStep_of_decode_error rfl hd

end Sys2Proof.Machine
end

section
/-! PROOFS. A packet encoded and decoded (45_packet_commands.md R300 to R302): PKT_ENCODE stores the four fields one after
another, and PKT_DECODE accepts them where they stand. -/

namespace Sys2Proof.Machine

/-- A string is read in two parts, the second from where the first ends. -/
theorem read_add (m : Memory) (a i j : Nat) : m.read a (i + j) = m.read a i ++ m.read (a + i) j := by
  simp [read_eq_map, List.range_add, Function.comp_def, Nat.add_assoc]

theorem bytesAt_of_buf {s t : State} (h : t.buf = s.buf) (a n : Nat) : t.bytesAt a n = s.bytesAt a n := by
  simp only [State.bytesAt, h]

/-- A part `f` of a stored string is read back from where it stands in the string. -/
theorem bytesAt_part {s : State} (hw : s.buf.wf = true) (a : Nat) {v p f q : List Byte} (hv : v = p ++ f ++ q) {i n : Nat}
    (hi : p.length = i) (hn : f.length = n) : (s.memWrite a v).bytesAt (a + i) n = f := by
  subst hv hi hn
  rw [← memRead_eq_bytesAt]
  have hread : (s.buf.write a (p ++ f ++ q)).read a (p ++ f ++ q).length = p ++ f ++ q := read_write_self hw a _
  rw [List.length_append, List.length_append, read_add, read_add] at hread
  obtain ⟨hpf, -⟩ := List.append_inj hread (by simp)
  exact (List.append_inj hpf (by simp)).2

/-- What PKT_ENCODE stores: FLAG, the public key, the ciphertext and the tag (R116, R300). -/
def State.encodedPacket (s : State) : List Byte :=
  flagBytes ++ s.readRegion s.pubRegion ++ s.readRegion (s.srcRegion s.len) ++ s.readRegion s.tagRegion

/-- A PKT_ENCODE that ends in ERRCODE 0 has stored the packet inside the buffer, and OUT_LEN is the packet's length
(R300). -/
theorem execPktEncode_of_ok {s t : State} (h : exec .pktEncode s = .next t) (hok : t.errCode = .ok) :
    s.fits s.dstAddr.toNat s.encodedLen ∧ t.buf = (s.memWrite s.dstAddr.toNat s.encodedPacket).buf ∧
      t.outLen = BitVec.ofNat 32 s.encodedLen ∧ t.tagLen = s.tagLen ∧ t.bufBytes = s.bufBytes := by
  obtain ⟨e, he, hx⟩ | ⟨hpass, hx⟩ := execPktEncode_cases s
  · have hne : e ≠ .ok := ne_ok_of_firstFail (i := .pktEncode) he
    cases hx.symm.trans h
    exact absurd hok hne
  · cases hx.symm.trans h
    exact ⟨fits_of_firstFail_none (r := s.dstRegion s.encodedLen) hpass (by simp [pktEncodeChecks]),
      complete_buf _ _, complete_outLen _ _, (complete_tagLen _ _).trans (memWrite_tagLen _ _ _),
      (complete_bufBytes _ _).trans (memWrite_bufBytes _ _ _)⟩

/-- The four fields stand in the packet at the slices of R301. -/
theorem encodedPacket_fields {s : State} (hw : s.buf.wf = true) (a : Nat) :
    (s.memWrite a s.encodedPacket).bytesAt a 4 = flagBytes ∧
      (s.memWrite a s.encodedPacket).bytesAt (a + 4) 33 = s.bytesAt s.pubAddr.toNat 33 ∧
      (s.memWrite a s.encodedPacket).bytesAt (a + 37) s.len = s.bytesAt s.srcAddr.toNat s.len ∧
      (s.memWrite a s.encodedPacket).bytesAt (a + 37 + s.len) s.tagLen = s.bytesAt s.tagAddr.toNat s.tagLen := by
  have hpacket : s.encodedPacket = flagBytes ++ s.bytesAt s.pubAddr.toNat 33 ++ s.bytesAt s.srcAddr.toNat s.len ++
      s.bytesAt s.tagAddr.toNat s.tagLen := by
    simp only [State.encodedPacket, State.readRegion, memRead_eq_bytesAt, State.pubRegion, State.srcRegion,
      State.tagRegion]
  have hflag : flagBytes.length = 4 := rfl
  have hpub := hpacket.trans (List.append_assoc _ _ _)
  refine ⟨bytesAt_part hw a (p := []) (hpub.trans (List.append_assoc _ _ _)) rfl hflag,
    bytesAt_part hw a hpub hflag (bytesAt_length s _ _), bytesAt_part hw a hpacket ?_ (bytesAt_length s _ _),
    Nat.add_assoc a 37 s.len ▸
      bytesAt_part hw a (hpacket.trans (List.append_nil _).symm) ?_ (bytesAt_length s _ _)⟩
  · rw [List.length_append, hflag, bytesAt_length]
  · rw [List.length_append, List.length_append, hflag, bytesAt_length, bytesAt_length]

/-- PKT_DECODE of a packet in the buffer that begins with FLAG and holds a positive number of ciphertext blocks (R301,
R302). -/
theorem execPktDecode_of_packet {s : State} (hfit : s.fits s.srcAddr.toNat s.len) (hlen : 69 ≤ s.len)
    (hflag : s.bytesAt s.srcAddr.toNat 4 = flagBytes) (hct : headerLen + s.tagLen < s.len)
    (hblocks : packetCtLen s.len s.tagLen % 16 = 0) :
    exec .pktDecode s = .next (s.complete (packetCtLen s.len s.tagLen)) := by
  have hpass : firstFail (pktDecodeChecks s) = none := by
    rw [firstFail_eq_none, pktDecodeChecks, List.forall_mem_cons, within_passes, decodeChecks_pass, memRead_eq_bytesAt]
    exact ⟨hfit, hlen, hflag, hct, hblocks⟩
  obtain ⟨e, he, -⟩ | ⟨-, hx⟩ := execPktDecode_cases s
  · cases hpass.symm.trans he
  · exact hx

/-- The ciphertext length that a decoder finds in an encoded packet (R117, R300, R302). -/
theorem packetCtLen_encodedLen (s : State) : packetCtLen s.encodedLen s.tagLen = s.len := by
  simp only [packetCtLen, State.encodedLen]
  omega

/-- PKT_DECODE of the packet that PKT_ENCODE stores finds the ciphertext's length, when that is a positive number of
blocks. -/
theorem execPktDecode_of_stored {s u : State} (hw : s.buf.wf = true)
    (hbuf : u.buf = (s.memWrite u.srcAddr.toNat s.encodedPacket).buf) (hlen : u.len = s.encodedLen)
    (htag : u.tagLen = s.tagLen) (hfit : u.fits u.srcAddr.toNat u.len) (hpos : s.len ≠ 0) (hblocks : s.len % 16 = 0) :
    exec .pktDecode u = .next (u.complete s.len) := by
  have hct : packetCtLen u.len u.tagLen = s.len := by rw [hlen, htag, packetCtLen_encodedLen]
  have hsum : u.len = 37 + s.len + u.tagLen := hlen.trans (by rw [htag]; rfl)
  obtain ⟨hflag, -⟩ := encodedPacket_fields hw u.srcAddr.toNat
  rw [← bytesAt_of_buf hbuf] at hflag
  rw [← hct] at hblocks ⊢
  refine execPktDecode_of_packet hfit ?_ hflag ?_ hblocks
  · obtain h | h := tagLen_cases u <;> omega
  · unfold headerLen; omega

/-- Settles O57: FLAG stands first in the packet, and the packet's length gives back the ciphertext's. -/
theorem encodedPacketDecodes : Obligations.EncodedPacketDecodes := by
  intro s t hw hstep hok hpos hblocks l a
  obtain ⟨hfit, hbuf, hout, htagLen, hbytes⟩ := execPktEncode_of_ok hstep hok
  have hlen : t.outLen.toNat = s.encodedLen := by
    have hmax := bufBytes_le s
    have hend : s.dstAddr.toNat + s.encodedLen ≤ s.bufBytes := hfit
    rw [hout, BitVec.toNat_ofNat]
    omega
  have hfit' : t.fits s.dstAddr.toNat t.outLen.toNat := by rw [State.fits, hlen, hbytes]; exact hfit
  have hdec := execPktDecode_of_stored (u := { t with srcAddr := s.dstAddr, srcLen := t.outLen }) hw hbuf hlen htagLen
    hfit' (fun h => hpos (BitVec.eq_of_toNat_eq h)) hblocks
  have hct : BitVec.ofNat 32 s.len = s.srcLen := by rw [State.len, BitVec.ofNat_toNat, BitVec.setWidth_eq]
  refine ⟨⟨_, hdec, rfl, hct, rfl⟩, ?_⟩
  simp only [bytesAt_of_buf hbuf]
  exact encodedPacket_fields hw a

end Sys2Proof.Machine
end

section
/-! PROOFS. The register space at every offset (40_host_interface.md R140 to R142, R150; 10_state.md R35, R44): an aligned 32-bit
access reaches the register at its offset, and a reserved offset reads 0 and ignores writes. -/

namespace Sys2Proof.Machine

/-! ### An aligned access of the register space (R140) -/

/-- A 32-bit read at a multiple of 4 answers `RegValue(off)` and has no effect (R141). -/
theorem hostStep_registerRead (s : State) {off : Nat} (hspace : off < 0x10000) (halign : off % 4 = 0) :
    s.hostStep ⟨BitVec.ofNat 17 off, .word, .read⟩ = (⟨.okay, some (s.readReg off)⟩, s) := by
  have hoff : (BitVec.ofNat 17 off).toNat = off := Nat.mod_eq_of_lt (by omega)
  simp [State.hostStep, State.registerTxn, hoff, hspace, halign]

/-- A 32-bit write at a multiple of 4 is `RegWrite(off, v)` (R142). -/
theorem hostStep_registerWrite (s : State) {off : Nat} (v : Word) (hspace : off < 0x10000) (halign : off % 4 = 0) :
    s.hostStep ⟨BitVec.ofNat 17 off, .word, .write v⟩ = (⟨.okay, none⟩, s.writeReg off v) := by
  have hoff : (BitVec.ofNat 17 off).toNat = off := Nat.mod_eq_of_lt (by omega)
  simp [State.hostStep, State.registerTxn, hoff, hspace, halign]

/-- The registers fill the aligned offsets below 0x034, so a reserved one lies above (R35, R44). -/
theorem reserved_ge {off : Nat} (halign : off % 4 = 0) (h : registerAt off = none) : 0x034 ≤ off := by
  have hfull : ∀ n < 0x034, n % 4 = 0 → registerAt n ≠ none := by decide
  by_contra hlow
  exact hfull off (by omega) halign h

theorem readReg_of_reserved (s : State) {off : Nat} (h : registerAt off = none) : s.readReg off = 0 := by
  simp [State.readReg, h]

theorem writeReg_of_reserved (s : State) {off : Nat} (v : Word) (h : registerAt off = none) : s.writeReg off v = s := by
  simp [State.writeReg, h]

theorem readReg_offset (s : State) (r : Register) : s.readReg r.offset = s.regValue r := by
  simp [State.readReg, registerAt_offset]

theorem writeReg_offset (s : State) (r : Register) (v : Word) : s.writeReg r.offset v = s.regWrite v r := by
  simp [State.writeReg, registerAt_offset]

/-! ### The values that are composed (R37 to R39, R141) -/

/-- BUF_LOG2 is the logarithm of the buffer's size (R37). -/
theorem capValue_eq (s : State) : s.capValue = BitVec.ofNat 32 (2 ^ 8 + Nat.log2 s.bufBytes) := by
  rw [State.capValue, State.bufBytes, Nat.log2_two_pow]

/-- Flags at six different bits do not carry: their OR is their sum (R39). -/
theorem or_flags_eq_sum : ∀ cmdRej accErr valid err done busy : Bool,
    flagAt cmdRej 9 ||| flagAt accErr 8 ||| flagAt valid 3 ||| flagAt err 2 ||| flagAt done 1 ||| flagAt busy 0 =
      BitVec.ofNat 32 (cmdRej.toNat * 2 ^ 9 + accErr.toNat * 2 ^ 8 + valid.toNat * 2 ^ 3 + err.toNat * 2 ^ 2 +
        done.toNat * 2 ^ 1 + busy.toNat) := by decide

theorem statusErr_eq (s : State) : s.statusErr = decide (s.errCode.code ≠ 0) :=
  Bool.eq_iff_iff.2 (by simp [State.statusErr])

theorem status_eq (s : State) :
    s.status = BitVec.ofNat 32 (s.cmdRej.toNat * 2 ^ 9 + s.accErr.toNat * 2 ^ 8 + s.keyValid.toNat * 2 ^ 3 +
      (decide (s.errCode.code ≠ 0)).toNat * 2 ^ 2 + s.done.toNat * 2 ^ 1 + s.busy.toNat) := by
  rw [← statusErr_eq]
  exact or_flags_eq_sum _ _ _ _ _ _

/-! ### A write that clears flags (R39, R150) -/

/-- A STATUS write of a 1 clears its flag, and of a 0 leaves it (R39). -/
theorem writeStatus_eq_ite (s : State) (v : Word) :
    s.writeStatus v =
      { s with
        done := if v.getLsbD 1 then false else s.done
        accErr := if v.getLsbD 8 then false else s.accErr
        cmdRej := if v.getLsbD 9 then false else s.cmdRej } := by
  have hclear : ∀ flag bit : Bool, (flag && !bit) = if bit then false else flag := by decide
  simp only [writeStatus_eq, hclear]

/-- Acceptance drops the interrupt output with DONE (R150, R350). -/
theorem accept_irq (s : State) (v : Word) : (s.accept v).irq = false := by
  simp [State.irq]

/-! ### The statements -/

/-- Settles O12: an aligned offset is the offset of a register, read as the rule composes it, or is reserved. -/
theorem registerReads : Obligations.RegisterReads := by
  intro s off hspace halign
  rw [hostStep_registerRead s hspace halign]
  congr 3
  cases hr : registerAt off with
  | none =>
    have hge := reserved_ge halign hr
    simp (disch := omega) only [readReg_of_reserved s hr, if_neg]
  | some r =>
    obtain rfl := registerAt_eq_some hr
    rw [readReg_offset]
    cases r with
    | cap => exact capValue_eq s
    | ctrl => exact (BitVec.ofNat_toNat 32 s.ctrl).symm
    | status => exact status_eq s
    | errCode => exact (BitVec.ofNat_toNat 32 s.errCode.code).symm
    | id | version | cmd | outLen | srcAddr | srcLen | dstAddr | pubAddr | tagAddr => rfl

/-- Settles O13: a register's write is refused or made as its phase says, and a reserved offset ignores it. -/
theorem registerWrites : Obligations.RegisterWrites := by
  refine ⟨fun s off v hspace halign => ?_, fun s v hb => ?_⟩
  · rw [hostStep_registerWrite s v hspace halign]
    congr 1
    cases hr : registerAt off with
    | none =>
      have hge := reserved_ge halign hr
      simp (disch := omega) only [writeReg_of_reserved s v hr, if_neg]
    | some r =>
      obtain rfl := registerAt_eq_some hr
      rw [writeReg_offset]
      cases r with
      | status => exact writeStatus_eq_ite s v
      | ctrl | cmd | srcAddr | srcLen | dstAddr | pubAddr | tagAddr => rfl
      | id | version | cap | errCode | outLen => rfl
  · have hcmd : s.hostStep ⟨0x14, .word, .write v⟩ = (⟨.okay, none⟩, s.writeCmd v) := hostStep_writeTxn s .cmd v
    rw [hcmd, State.writeCmd, hb, if_neg (by decide)]
    exact accept_irq s v

/-- Settles O23: the write clears DONE by its bit 1 and, its bits 8 and 9 being 0, no refusal flag. -/
theorem acknowledgeKeepsTheResult : Obligations.AcknowledgeKeepsTheResult := by
  intro s v hdone hacc hrej
  have hwrite : s.hostStep ⟨0x10, .word, .write v⟩ = (⟨.okay, none⟩, s.writeStatus v) := hostStep_writeTxn s .status v
  rw [hwrite, writeStatus_eq_ite, hdone, hacc, hrej]
  rfl

end Sys2Proof.Machine
end

section
/-! PROOFS. The checks of R153 and R154: when two regions overlap, and what a command that fails a check leaves. -/

namespace Sys2Proof.Machine

/-! ### The regions (R153) -/

theorem inBounds_iff (s : State) (p : Region) : s.inBounds p = true ↔ p.addr + p.len ≤ s.bufBytes := by
  simp [State.inBounds]

theorem overlap_iff (p q : Region) :
    overlap p q = true ↔ p.len > 0 ∧ q.len > 0 ∧ p.addr < q.addr + q.len ∧ q.addr < p.addr + p.len := by
  simp [overlap, and_assoc]

/-- The later of the two starts is a byte of both regions. -/
theorem overlap_iff_exists (p q : Region) :
    overlap p q = true ↔ ∃ x, p.addr ≤ x ∧ x < p.addr + p.len ∧ q.addr ≤ x ∧ x < q.addr + q.len := by
  rw [overlap_iff]
  constructor
  · intro h
    exact ⟨max p.addr q.addr, by omega⟩
  · rintro ⟨x, h⟩
    omega

/-- Settles O32: the two predicates, and the byte that two overlapping regions share. -/
theorem regionPredicates : Obligations.RegionPredicates :=
  fun s p q => ⟨inBounds_iff s p, overlap_iff p q, overlap_iff_exists p q⟩

/-! ### The codes of a command whose checks pass (R154) -/

theorem unpadTo_errCode (s : State) (out : Region) (d : List Byte) (bad : ErrCode) :
    (s.unpadTo out d bad).errCode = .ok ∨ (s.unpadTo out d bad).errCode = bad := by
  obtain ⟨-, h⟩ | ⟨p, -, h⟩ := unpadTo_cases s out d bad
  · exact .inr (congrArg State.errCode h)
  · exact .inl (congrArg State.errCode h)

theorem openPaddingCode_cases (s : State) : s.openPaddingCode = .auth ∨ s.openPaddingCode = .padding := by
  unfold State.openPaddingCode
  split <;> simp

/-- Past its checks OPEN ends with no error, with a wrong tag or with a wrong padding (R321, R324). -/
theorem openBody_errCode_of_pass {s : State} (h : firstFail (openChecks s) = none) :
    (openBody s).errCode ∈ [.ok, .auth, ErrCode.padding] := by
  obtain ⟨e, he, -⟩ | ⟨-, hb | hb⟩ := openBody_cases s
  · cases h.symm.trans he
  · simp [hb, State.failClosed]
  · obtain hc | hc := unpadTo_errCode s (s.dstRegion s.openedLen)
      (s.decrypt (s.memRead (s.srcAddr.toNat + headerLen) s.openedLen)) s.openPaddingCode
    · simp [hb, hc]
    · rw [hb, hc]
      obtain hp | hp := openPaddingCode_cases s <;> simp [hp]

/-- A command whose checks pass ends with no error, or with check 8 or 9: the tag or the padding (R154). -/
theorem exec_errCode_of_pass {i : Instr} {s t : State} (hpass : firstFail (checksOf i s) = none)
    (h : exec i s = .next t) : t.errCode ∈ [.ok, .auth, ErrCode.padding] := by
  cases i with
  | nop | keyclear => cases h; simp
  | kdf x =>
    rw [checksOf] at hpass
    simp only [exec, execKdf, hpass] at h
    cases x <;> cases h <;> simp
  | macVerify =>
    rw [checksOf] at hpass
    obtain ⟨e, he, -⟩ | ⟨-, hx | hx⟩ := execMacVerify_cases s
    · cases hpass.symm.trans he
    · cases hx.symm.trans h; simp
    · cases hx.symm.trans h; simp
  | aesDec =>
    rw [checksOf] at hpass
    simp only [exec, execAesDec, hpass] at h
    cases h
    obtain hc | hc := unpadTo_errCode s (s.dstRegion s.len) (s.decrypt (s.readRegion (s.srcRegion s.len))) .padding <;>
      simp [hc]
  | openPkt =>
    cases h
    simpa using openBody_errCode_of_pass hpass
  | keyload | aesEnc | macGen | pktEncode | pktDecode | sealPkt =>
    rw [checksOf] at hpass
    simp only [exec, execKeyload, execAesEnc, execMacGen, execPktEncode, execPktDecode, execSeal, sealBody, hpass] at h
    cases h
    simp

/-- Settles O31: an early code is the code of a failing check, and a failing check writes nothing. -/
theorem earlyErrorsWriteNothing : Obligations.EarlyErrorsWriteNothing := by
  intro i s t hexec hearly
  cases hf : firstFail (checksOf i s) with
  | none =>
    have hlate : t.errCode = .ok ∨ t.errCode = .auth ∨ t.errCode = .padding := by
      simpa using exec_errCode_of_pass hf hexec
    obtain hc | hc | hc := hlate <;> simp [hc] at hearly
  | some e =>
    cases (exec_of_firstFail hf).symm.trans hexec
    cases isProtocol i <;> simp

end Sys2Proof.Machine
end

section
/-! PROOFS. The byte-string primitives: the padding of the hashes (41_crypto_primitives.md R181, R187), the padding of a
plaintext and its check (R208, R209), and the comparison of tags (R195). -/

namespace Sys2Proof.Machine

/-! ### The padding of the hashes (R181, R187) -/

/-- The zeros between the byte 0x80 and the length field of a padded message of `n` bytes (R181, R187). -/
def padZeros (blockBytes lenBytes n : Nat) : Nat :=
  (blockBytes - lenBytes + (blockBytes - (n + 1) % blockBytes)) % blockBytes

theorem shaPad_eq (blockBytes lenBytes : Nat) (m : List Byte) :
    shaPad blockBytes lenBytes m =
      m ++ [0x80] ++ List.replicate (padZeros blockBytes lenBytes m.length) 0x00 ++ bytesBE lenBytes (8 * m.length) :=
  rfl

section
variable {blockBytes lenBytes : Nat} (hlen : 0 < lenBytes) (hle : lenBytes ≤ blockBytes) (n : Nat)
include hlen hle

/-- The zeros leave the room of the length field in the last block. -/
theorem padZeros_mod : (n + 1 + padZeros blockBytes lenBytes n) % blockBytes = blockBytes - lenBytes := by
  have hused : (n + 1) % blockBytes < blockBytes := Nat.mod_lt _ (by omega)
  have hsum : (n + 1) % blockBytes + (blockBytes - lenBytes + (blockBytes - (n + 1) % blockBytes)) =
      blockBytes - lenBytes + blockBytes := by omega
  rw [padZeros, Nat.add_mod_mod, ← Nat.mod_add_mod, hsum, Nat.add_mod_right, Nat.mod_eq_of_lt (by omega)]

/-- Fewer zeros leave another room: two counts that leave the same differ by whole blocks. -/
theorem padZeros_least {j : Nat} (hj : j < padZeros blockBytes lenBytes n) :
    (n + 1 + j) % blockBytes ≠ blockBytes - lenBytes := by
  intro h
  have hlt : padZeros blockBytes lenBytes n < blockBytes := Nat.mod_lt _ (by omega)
  have hsame : j ≡ padZeros blockBytes lenBytes n [MOD blockBytes] :=
    Nat.ModEq.add_left_cancel' (n + 1) (h.trans (padZeros_mod hlen hle n).symm)
  exact absurd (hsame.eq_of_lt_of_lt (hj.trans hlt) hlt) hj.ne

/-- The padded message is whole blocks. -/
theorem shaPad_length_mod (m : List Byte) : (shaPad blockBytes lenBytes m).length % blockBytes = 0 := by
  have hsum : (shaPad blockBytes lenBytes m).length =
      m.length + 1 + padZeros blockBytes lenBytes m.length + lenBytes := by
    rw [shaPad_eq, List.length_append, List.length_append, List.length_append, List.length_replicate, bytesBE_length]
    rfl
  rw [hsum, ← Nat.mod_add_mod, padZeros_mod hlen hle, Nat.sub_add_cancel hle, Nat.mod_self]

end

/-- The 33 bytes of a compressed point fill one block of SHA-512 (R187). -/
theorem shaPad_length_of_33 {m : List Byte} (h : m.length = 33) : (shaPad 128 16 m).length = 128 := by
  simp [shaPad_eq, h, padZeros]

/-- Settles O33: both paddings are one, at the block and length-field sizes of the two hashes. -/
theorem hashPadding : Obligations.HashPadding :=
  ⟨fun m => ⟨padZeros 64 8 m.length, shaPad_eq 64 8 m, padZeros_mod (by decide) (by decide) _,
      fun _ => padZeros_least (by decide) (by decide) _, shaPad_length_mod (by decide) (by decide) m⟩,
    fun m => ⟨padZeros 128 16 m.length, shaPad_eq 128 16 m, padZeros_mod (by decide) (by decide) _,
      fun _ => padZeros_least (by decide) (by decide) _, shaPad_length_mod (by decide) (by decide) m,
      fun h => ⟨by rw [h]; rfl, shaPad_length_of_33 h⟩⟩⟩

/-! ### The padding of a plaintext and its check (R208, R209) -/

theorem slice_to_length (d : List Byte) (i : Nat) : slice d i d.length = d.drop i :=
  List.take_of_length_le (by simp)

/-- A string ends in `n` bytes `v` exactly when each of its last `n` bytes, counted from the end, is `v`. -/
theorem drop_eq_bytes_iff {d : List Byte} {n : Nat} (v : Byte) (hn : n ≤ d.length) :
    d.drop (d.length - n) = bytes n v ↔ ∀ j, j < n → d.getD (d.length - 1 - j) 0 = v := by
  have hlen : (d.drop (d.length - n)).length = n := by rw [List.length_drop]; omega
  rw [bytes, List.eq_replicate_iff, and_iff_right hlen, List.forall_mem_iff_forall_getElem]
  constructor
  · intro h j hj
    have hlast := h (n - 1 - j) (by omega)
    rw [List.getElem_drop] at hlast
    rw [List.getD_eq_getElem (hn := by omega), ← hlast]
    congr 1
    omega
  · intro h i hi
    have hlast := h (n - 1 - i) (by omega)
    rw [List.getD_eq_getElem (hn := by omega)] at hlast
    rw [List.getElem_drop, ← hlast]
    congr 1
    omega

/-- The check answers `p` exactly for the pad length that the last byte gives, when the last `p` bytes are `p` (R209). -/
theorem pkcs7Check_eq_some_iff (d : List Byte) (p : Nat) :
    pkcs7Check d = some p ↔
      (d.getD (d.length - 1) 0).toNat = p ∧ 1 ≤ p ∧ p ≤ 16 ∧ d.drop (d.length - p) = bytes p (BitVec.ofNat 8 p) := by
  simp only [pkcs7Check, slice_to_length]
  constructor
  · intro h
    split at h
    case isTrue => cases h
    case isFalse hrange =>
      split at h
      case isTrue => cases h
      case isFalse hpad =>
        cases h
        exact ⟨rfl, by omega, by omega, not_not.1 hpad⟩
  · rintro ⟨rfl, hlow, hhigh, hpad⟩
    rw [if_neg (by omega), if_neg (not_not.2 hpad)]

/-- On a string of at least 16 bytes the last byte needs no clause of its own: it is one of the last `p`. -/
theorem pkcs7Check_iff {d : List Byte} (hd : 16 ≤ d.length) (p : Nat) :
    pkcs7Check d = some p ↔
      1 ≤ p ∧ p ≤ 16 ∧ ∀ j, j < p → d.getD (d.length - 1 - j) 0 = BitVec.ofNat 8 p := by
  rw [pkcs7Check_eq_some_iff]
  constructor
  · rintro ⟨-, hlow, hhigh, hpad⟩
    exact ⟨hlow, hhigh, (drop_eq_bytes_iff _ (by omega)).1 hpad⟩
  · rintro ⟨hlow, hhigh, hpad⟩
    have hlast : d.getD (d.length - 1) 0 = BitVec.ofNat 8 p := hpad 0 hlow
    refine ⟨?_, hlow, hhigh, (drop_eq_bytes_iff _ (by omega)).2 hpad⟩
    rw [hlast, BitVec.toNat_ofNat]
    omega

theorem padLen_range (l : Nat) : 1 ≤ padLen l ∧ padLen l ≤ 16 := by unfold padLen; omega

/-- The check finds what the padding appended (R208). -/
theorem pkcs7Check_pkcs7Pad (m : List Byte) : pkcs7Check (pkcs7Pad m) = some (padLen m.length) := by
  have hlen := pkcs7Pad_length m
  obtain ⟨hlow, hhigh⟩ := padLen_range m.length
  refine (pkcs7Check_iff (by omega) _).2 ⟨hlow, hhigh, (drop_eq_bytes_iff _ (by omega)).1 ?_⟩
  have hsub : (pkcs7Pad m).length - padLen m.length = m.length := by simp [pkcs7Pad]
  rw [hsub, pkcs7Pad, List.drop_left]

/-- Settles O37: the padding by its definition, its length, and the check of it. -/
theorem paddingIsUnconditional : Obligations.PaddingIsUnconditional :=
  fun m => ⟨rfl, pkcs7Pad_length m, pkcs7Check_pkcs7Pad m⟩

/-- Settles O38: a positive number of whole blocks has at least 16 bytes, so the check reads no byte before the string. -/
theorem paddingCheckIsExact : Obligations.PaddingCheckIsExact := by
  intro d hpos hblocks
  have hiff := pkcs7Check_iff (d := d) (by omega)
  refine ⟨hiff, ?_⟩
  rw [Option.eq_none_iff_forall_ne_some, not_exists]
  exact forall_congr' fun p => not_congr (hiff p)

/-! ### The comparison of tags (R195) -/

theorem byte_or_eq_zero {a b : Byte} : a ||| b = 0 ↔ a = 0 ∧ b = 0 := BitVec.or_eq_zero_iff

theorem byte_xor_eq_zero {a b : Byte} : a ^^^ b = 0 ↔ a = b := BitVec.xor_eq_zero_iff

/-- An OR of bytes is 0 exactly when each of them is. -/
theorem foldl_or_eq_zero (l : List Byte) (x : Byte) : l.foldl (· ||| ·) x = 0 ↔ x = 0 ∧ ∀ b ∈ l, b = 0 := by
  induction l generalizing x with
  | nil => simp
  | cons b l ih => rw [List.foldl_cons, ih, byte_or_eq_zero, List.forall_mem_cons, and_assoc]

theorem xorBytes_zero_iff {a b : List Byte} (h : a.length = b.length) : (∀ x ∈ xorBytes a b, x = 0) ↔ a = b := by
  induction a generalizing b with
  | nil => simpa [xorBytes] using (List.length_eq_zero_iff.1 h.symm).symm
  | cons x a ih =>
    cases b with
    | nil => cases h
    | cons y b =>
      have ih' := ih (Nat.succ.inj h)
      simp only [xorBytes, List.zipWith_cons_cons, List.forall_mem_cons, List.cons.injEq] at ih' ⊢
      rw [ih', byte_xor_eq_zero]

theorem ctEq_iff {a b : List Byte} (h : a.length = b.length) : ctEq a b = true ↔ a = b := by
  rw [ctEq, beq_iff_eq, foldl_or_eq_zero, and_iff_right rfl, xorBytes_zero_iff h]

/-- Settles O39: differences that OR to 0 are all 0. -/
theorem tagComparisonIsEquality : Obligations.TagComparisonIsEquality :=
  fun _ _ h => ctEq_iff h

end Sys2Proof.Machine
end

section
/-! PROOFS. GF(2^8) and the S-boxes (41_crypto_primitives.md R196 to R198): the field's product is linear in both bytes,
so what holds on single bits holds on all bytes. -/

namespace Sys2Proof.Machine

/-! ### The S-boxes (R196 to R198) -/

/-- The affine map of R197. -/
def sboxAffine (y : Byte) : Byte :=
  y ^^^ y.rotateLeft 1 ^^^ y.rotateLeft 2 ^^^ y.rotateLeft 3 ^^^ y.rotateLeft 4 ^^^ 0x63

/-- The byte that the affine map takes to the table's entry for `x`: the inverse of `x`, and 0 for 0. -/
def sboxPreimage (x : Byte) : Byte :=
  (sbox x).rotateLeft 1 ^^^ (sbox x).rotateLeft 3 ^^^ (sbox x).rotateLeft 6 ^^^ 0x05

theorem sbox_eq_affine (x : Byte) : sbox x = sboxAffine (sboxPreimage x) := by
  revert x
  decide +kernel

theorem invSbox_sbox (x : Byte) : invSbox (sbox x) = x := by
  revert x
  decide +kernel

theorem gfMul_zero_left (c : Byte) : gfMul 0 c = 0 := by
  have h := gfMul_xor 0 0 c
  rwa [BitVec.xor_self, BitVec.xor_self] at h

theorem gfMul_zero_right (a : Byte) : gfMul a 0 = 0 := by
  have h := gfMul_xor_right a 0 0
  rwa [BitVec.xor_self, BitVec.xor_self] at h

theorem gfMul_one_right (a : Byte) : gfMul a 0x01 = a := by
  simp [gfMul, gfMulFrom]

/-- A byte is the XOR of its bits. -/
theorem byte_eq_xor_bits (b : Byte) :
    b = ((List.finRange 8).filter (fun i : Fin 8 => b.getLsbD i)).foldr (fun i acc => BitVec.twoPow 8 i ^^^ acc) 0 := by
  revert b
  decide +kernel

/-- What holds of 0, of the eight bytes of one bit, and of the XOR of two bytes it holds of, holds of every byte. -/
theorem byte_xor_induction {P : Byte → Prop} (hzero : P 0) (hbit : ∀ i : Fin 8, P (BitVec.twoPow 8 i.val))
    (hxor : ∀ a b, P a → P b → P (a ^^^ b)) (b : Byte) : P b := by
  rw [byte_eq_xor_bits b]
  induction (List.finRange 8).filter (fun i : Fin 8 => b.getLsbD i) with
  | nil => exact hzero
  | cons i l ih => exact hxor _ _ (hbit i) ih

theorem gfMul_one_left (b : Byte) : gfMul 0x01 b = b := by
  induction b using byte_xor_induction with
  | hzero => exact gfMul_zero_right _
  | hbit i => revert i; decide
  | hxor a b ha hb => rw [gfMul_xor_right, ha, hb]

/-- Multiplication commutes with `xtime`: it is linear in both bytes, and bits go the same way. -/
theorem gfMul_xtime_right (a b : Byte) : gfMul a (xtime b) = xtime (gfMul a b) := by
  have hbits : ∀ i j : Fin 8, gfMul (BitVec.twoPow 8 i) (xtime (BitVec.twoPow 8 j)) =
      xtime (gfMul (BitVec.twoPow 8 i) (BitVec.twoPow 8 j)) := by decide +kernel
  have hzero : xtime 0 = 0 := by decide
  induction b using byte_xor_induction with
  | hzero => rw [hzero, gfMul_zero_right, hzero]
  | hxor b c hb hc => rw [xtime_xor, gfMul_xor_right, gfMul_xor_right, xtime_xor, hb, hc]
  | hbit j =>
    induction a using byte_xor_induction with
    | hzero => rw [gfMul_zero_left, gfMul_zero_left, hzero]
    | hxor a c ha hc => rw [gfMul_xor, gfMul_xor, xtime_xor, ha, hc]
    | hbit i => exact hbits i j

theorem gfMulFrom_gfMul (a b c : Byte) (n : Nat) : gfMulFrom (gfMul a b) c n = gfMul a (gfMulFrom b c n) := by
  induction n generalizing b with
  | zero => exact (gfMul_zero_right a).symm
  | succ n ih =>
    rw [gfMulFrom, gfMulFrom, gfMul_xor_right, ← gfMul_xtime_right, ih]
    split
    · rfl
    · rw [gfMul_zero_right]

/-- Multiplication in GF(2^8) is associative. -/
theorem gfMul_assoc (a b c : Byte) : gfMul (gfMul a b) c = gfMul a (gfMul b c) := gfMulFrom_gfMul a b c 8

theorem gfMul_sboxPreimage_self : ∀ x : Byte, x ≠ 0 → gfMul (sboxPreimage x) x = 0x01 := by
  decide +kernel

/-- A byte has no other inverse than the one the affine map takes to its entry. -/
theorem eq_sboxPreimage_of_gfMul_eq_one {x y : Byte} (h : gfMul x y = 0x01) : y = sboxPreimage x := by
  have hx : x ≠ 0 := by
    rintro rfl
    rw [gfMul_zero_left] at h
    exact absurd h (by decide)
  calc y = gfMul (gfMul (sboxPreimage x) x) y := by rw [gfMul_sboxPreimage_self x hx, gfMul_one_left]
    _ = sboxPreimage x := by rw [gfMul_assoc, h, gfMul_one_right]

/-- Settles O34: a byte has one inverse, which the affine map takes to the table's entry. -/
theorem sboxIsInverseThenAffine : Obligations.SboxIsInverseThenAffine := by
  refine ⟨fun x y h => ?_, invSbox_sbox⟩
  change sbox x = sboxAffine y
  obtain h | ⟨rfl, rfl⟩ := h
  · rw [sbox_eq_affine, eq_sboxPreimage_of_gfMul_eq_one h]
  · decide

end Sys2Proof.Machine
end

section
/-! PROOFS. AES-128 and CBC undone (41_crypto_primitives.md R201 to R207): each step of the inverse cipher undoes its
step of the forward cipher. -/

namespace Sys2Proof.Machine

/-! ### The steps of a round undone (R202) -/

/-- A row applied to a mixed column is a row applied to the column: the product of the row and the matrix of MixColumns. -/
theorem mixRow_mixColumn (l0 l1 l2 l3 : Byte) (a : AesColumn) :
    mixRow l0 l1 l2 l3 (mixColumn a) =
      mixRow (gfMul 0x02 l0 ^^^ gfMul 0x01 l1 ^^^ gfMul 0x01 l2 ^^^ gfMul 0x03 l3)
        (gfMul 0x03 l0 ^^^ gfMul 0x02 l1 ^^^ gfMul 0x01 l2 ^^^ gfMul 0x01 l3)
        (gfMul 0x01 l0 ^^^ gfMul 0x03 l1 ^^^ gfMul 0x02 l2 ^^^ gfMul 0x01 l3)
        (gfMul 0x01 l0 ^^^ gfMul 0x01 l1 ^^^ gfMul 0x03 l2 ^^^ gfMul 0x02 l3) a := by
  simp only [mixRow, mixColumn, gfMul_xor, gfMul_xor_right, gfMul_assoc]
  ac_rfl

/-- The matrix of InvMixColumns times the matrix of MixColumns is the unit matrix. -/
theorem invMixColumn_mixColumn (a : AesColumn) : invMixColumn (mixColumn a) = a := by
  calc invMixColumn (mixColumn a)
      = ⟨mixRow 1 0 0 0 a, mixRow 0 1 0 0 a, mixRow 0 0 1 0 a, mixRow 0 0 0 1 a⟩ := by
        rw [invMixColumn, mixRow_mixColumn, mixRow_mixColumn, mixRow_mixColumn, mixRow_mixColumn]
        rfl
    _ = a := by
        simp only [mixRow, gfMul_one_right, gfMul_zero_right]
        simp

theorem column_invSbox_sbox (a : AesColumn) : (a.map sbox).map invSbox = a := by
  simp only [AesColumn.map, invSbox_sbox]

theorem column_xor_xor (a b : AesColumn) : (a.xor b).xor b = a := by
  simp [AesColumn.xor]

theorem addRoundKey_self (w : List (BitVec 32)) (k : Nat) (s : AesState) : addRoundKey w k (addRoundKey w k s) = s := by
  simp only [addRoundKey, column_xor_xor]

theorem invSubBytes_subBytes (s : AesState) : invSubBytes (subBytes s) = s := by
  simp only [invSubBytes, subBytes, AesState.mapColumns, column_invSbox_sbox]

theorem invShiftRows_shiftRows (s : AesState) : invShiftRows (shiftRows s) = s := rfl

theorem invMixColumns_mixColumns (s : AesState) : invMixColumns (mixColumns s) = s := by
  simp only [invMixColumns, mixColumns, AesState.mapColumns, invMixColumn_mixColumn]

/-! ### The ciphers (R201, R203, R204) -/

/-- Round k of the inverse cipher begins where round k of the forward cipher has substituted and shifted. -/
theorem decRound_shiftRows_subBytes (w : List (BitVec 32)) (k : Nat) (s : AesState) :
    decRound w k (shiftRows (subBytes (encRound w k s))) = shiftRows (subBytes s) := by
  rw [decRound, invShiftRows_shiftRows, invSubBytes_subBytes, encRound, addRoundKey_self, invMixColumns_mixColumns]

/-- Rounds n down to 1 of the inverse cipher undo rounds 1 to n of the forward cipher, both seen after a substitution and
a shift. -/
theorem decRounds_encRounds (w : List (BitVec 32)) (n : Nat) (s : AesState) :
    decRounds w n (shiftRows (subBytes (encRounds w n s))) = shiftRows (subBytes s) := by
  induction n with
  | zero => rfl
  | succ n ih => rw [decRounds, encRounds, decRound_shiftRows_subBytes, ih]

theorem aesDecState_aesEncState (w : List (BitVec 32)) (s : AesState) : aesDecState w (aesEncState w s) = s := by
  rw [aesDecState, aesEncState, addRoundKey_self, decRounds_encRounds, invShiftRows_shiftRows, invSubBytes_subBytes,
    addRoundKey_self]

theorem load_unload (s : AesState) : AesState.load s.unload = s := rfl

/-- Sixteen bytes are a state array's bytes. -/
theorem unload_load : ∀ {b : List Byte}, b.length = 16 → (AesState.load b).unload = b
  | [_, _, _, _, _, _, _, _, _, _, _, _, _, _, _, _], _ => rfl

theorem aesDecBlock_aesEncBlock (k : List Byte) {b : List Byte} (h : b.length = 16) :
    aesDecBlock k (aesEncBlock k b) = b := by
  rw [aesDecBlock, aesEncBlock, load_unload, aesDecState_aesEncState, unload_load h]

/-- Settles O35: each step of the inverse cipher undoes its step of the forward cipher, the last first. -/
theorem aesDecryptsWhatItEncrypts : Obligations.AesDecryptsWhatItEncrypts :=
  fun k _ h => aesDecBlock_aesEncBlock k h

/-! ### CBC (R206, R207) -/

theorem xorBytes_cancel {a b : List Byte} (h : a.length = b.length) : xorBytes (xorBytes a b) b = a := by
  induction a generalizing b with
  | nil => rfl
  | cons x a ih =>
    cases b with
    | nil => cases h
    | cons y b =>
      have ih' := ih (Nat.succ.inj h)
      simp only [xorBytes, List.zipWith_cons_cons] at ih' ⊢
      rw [ih', BitVec.xor_assoc, BitVec.xor_self, BitVec.xor_zero]

/-- Block by block: both directions chain on the same ciphertext blocks. -/
theorem cbcDecBlocks_cbcEncBlocks (k prev : List Byte) (ps : List (List Byte)) (hprev : prev.length = 16)
    (hps : ∀ p ∈ ps, p.length = 16) : cbcDecBlocks k prev (cbcEncBlocks k prev ps) = ps := by
  induction ps generalizing prev with
  | nil => rfl
  | cons p ps ih =>
    obtain ⟨hp, hrest⟩ := List.forall_mem_cons.1 hps
    have hx : (xorBytes p prev).length = 16 := by rw [xorBytes_length, hp, hprev, Nat.min_self]
    rw [cbcEncBlocks, cbcDecBlocks, aesDecBlock_aesEncBlock k hx, xorBytes_cancel (hp.trans hprev.symm),
      ih _ (aesEncBlock_length k _) hrest]

/-- Whole blocks cut from a string have the block's length. -/
theorem length_of_mem_blocks {k n : Nat} {b c : List Byte} (h : b.length = k * n) (hc : c ∈ blocks k n b) :
    c.length = k := by
  induction n generalizing b with
  | zero => cases hc
  | succ n ih =>
    rw [Nat.mul_succ] at h
    obtain rfl | hc := List.mem_cons.1 hc
    · rw [List.length_take, h]; omega
    · exact ih (by rw [List.length_drop, h]; omega) hc

/-- A ciphertext cut into blocks is the list of its ciphertext blocks. -/
theorem blocks_cbcEnc (k iv p : List Byte) :
    blocks 16 ((cbcEnc k iv p).length / 16) (cbcEnc k iv p) = cbcEncBlocks k iv (blocks 16 (p.length / 16) p) := by
  have hcount : (cbcEnc k iv p).length / 16 = (cbcEncBlocks k iv (blocks 16 (p.length / 16) p)).length := by
    rw [cbcEnc_length, cbcEncBlocks_length, blocks_length]
    omega
  rw [hcount]
  exact blocks_of_flatten 16 _ fun _ => cbcEncBlocks_block

theorem cbcDec_cbcEnc (k : List Byte) {iv p : List Byte} (hiv : iv.length = 16) (hp : p.length % 16 = 0) :
    cbcDec k iv (cbcEnc k iv p) = p := by
  have hlen : p.length = 16 * (p.length / 16) := by omega
  rw [cbcDec, blocks_cbcEnc, cbcDecBlocks_cbcEncBlocks k iv _ hiv fun _ => length_of_mem_blocks hlen,
    blocks_flatten 16 _ p hlen]

/-- Settles O36: CBC over a block cipher that decryption undoes. -/
theorem cbcDecryptsWhatItEncrypts : Obligations.CbcDecryptsWhatItEncrypts :=
  fun k _ _ => cbcDec_cbcEnc k

end Sys2Proof.Machine
end

section
/-! PROOFS. A packet sealed and opened (46_protocol_commands.md R320, R321, R326): what SEAL stores, OPEN accepts with
its own tag and refuses with another. -/

namespace Sys2Proof.Machine

/-! ### Strings of the buffer read -/

theorem readByte_eq_of_read_eq {m m' : Memory} {a n : Nat} (h : m.read a n = m'.read a n) {x : Nat} (hlow : a ≤ x)
    (hhigh : x < a + n) : m.readByte x = m'.readByte x := by
  rw [read_eq_map, read_eq_map, List.map_inj_left] at h
  have hx := h (x - a) (List.mem_range.2 (by omega))
  rwa [Nat.add_sub_cancel' hlow] at hx

theorem read_congr {m m' : Memory} {a n : Nat} (h : ∀ x, a ≤ x → x < a + n → m.readByte x = m'.readByte x) :
    m.read a n = m'.read a n := by
  rw [read_eq_map, read_eq_map]
  exact List.map_congr_left fun i hi => h _ (Nat.le_add_right a i) (Nat.add_lt_add_left (List.mem_range.1 hi) a)

theorem bytes_zero_getD (n i : Nat) : (bytes n 0x00).getD i 0 = 0 := by
  rw [bytes, List.getD_eq_getElem?_getD, List.getElem?_replicate]
  split <;> rfl

/-- A zero-filled region reads 0, and every other byte is as it was. -/
theorem readByte_write_zeros {m : Memory} (h : m.wf = true) (a n x : Nat) :
    (m.write a (bytes n 0x00)).readByte x = if a ≤ x ∧ x < a + n then 0 else m.readByte x := by
  rw [readByte_write h, bytes_length, bytes_zero_getD]

/-! ### A SEAL that succeeds (R320) -/

/-- The packet that SEAL stores: all that stands before the tag, and its tag. -/
def State.sealedPacket (s : State) : List Byte := s.sealedPrefix ++ s.tagOf s.sealedPrefix

theorem sealedPrefix_length (s : State) : s.sealedPrefix.length = headerLen + paddedLen s.len := by
  have h := sealedPacket_length s
  rw [List.length_append, tagOf_length, State.sealedLen] at h
  omega

/-- A SEAL that ends in ERRCODE 0 has stored the packet inside the buffer. -/
theorem execSeal_of_ok {s t : State} (h : exec .sealPkt s = .next t) (hok : t.errCode = .ok) :
    s.fits s.dstAddr.toNat s.sealedLen ∧
      t = ((s.memWrite s.dstAddr.toNat s.sealedPacket).complete s.sealedLen).autoClear := by
  cases h
  obtain ⟨e, he, hx⟩ | ⟨hpass, hx⟩ := sealBody_cases s
  · have hne : e ≠ .ok := ne_ok_of_firstFail (i := .sealPkt) he
    rw [hx] at hok
    exact absurd (by simpa using hok) hne
  · exact ⟨fits_of_firstFail_none (r := s.dstRegion s.sealedLen) hpass (by simp [sealChecks]),
      congrArg State.autoClear hx⟩

/-! ### OPEN past its checks (R321) -/

/-- The tag that OPEN computes of what stands before the packet's tag. -/
def State.expectedTag (s : State) : List Byte := s.tagOf (s.memRead s.srcAddr.toNat (headerLen + s.openedLen))

/-- The tag that OPEN finds at the packet's end. -/
def State.foundTag (s : State) : List Byte := s.memRead (s.srcAddr.toNat + headerLen + s.openedLen) s.tagLen

theorem ctEq_tags_iff (s : State) : ctEq s.expectedTag s.foundTag = true ↔ s.expectedTag = s.foundTag :=
  ctEq_iff ((tagOf_length s _).trans (read_length _ _ _).symm)

theorem openBody_of_tag_eq {s : State} (hpass : firstFail (openChecks s) = none) (htag : s.expectedTag = s.foundTag) :
    openBody s = s.unpadTo (s.dstRegion s.openedLen)
      (s.decrypt (s.memRead (s.srcAddr.toNat + headerLen) s.openedLen)) s.openPaddingCode := by
  rw [openBody, hpass]
  exact if_pos ((ctEq_tags_iff s).2 htag)

theorem openBody_of_tag_ne {s : State} (hpass : firstFail (openChecks s) = none) (htag : s.expectedTag ≠ s.foundTag) :
    openBody s = s.failClosed (s.dstRegion s.openedLen) .auth := by
  rw [openBody, hpass]
  exact if_neg fun h => htag ((ctEq_tags_iff s).1 h)

/-! ### OPEN of a packet that SEAL made, but for its tag -/

/-- `u` is set to OPEN, with the keys and the T of `s`, a packet of the length of the one that SEAL made of `s` and with the
same bytes before its tag, into a region of the buffer apart from the packet. Of the tag's bytes it says nothing. -/
structure State.OpensSealed (s u : State) : Prop where
  keys : u.keys = s.keys
  keyValid : u.keyValid = true
  tagLen : u.tagLen = s.tagLen
  len : u.len = s.sealedLen
  src_fits : u.fits u.srcAddr.toNat u.len
  dst_fits : u.fits u.dstAddr.toNat (paddedLen s.len)
  dst_apart : ¬ meets u.dstAddr.toNat (paddedLen s.len) u.srcAddr.toNat u.len
  sealedPrefix : u.memRead u.srcAddr.toNat (headerLen + paddedLen s.len) = s.sealedPrefix

section
variable {s u : State} (h : s.OpensSealed u)
include h

theorem State.OpensSealed.openedLen : u.openedLen = paddedLen s.len := by
  rw [State.openedLen, h.len, h.tagLen, packetCtLen, State.sealedLen]
  omega

/-- The packet begins with FLAG, and the ciphertext stands behind its header (R116). -/
theorem State.OpensSealed.fields :
    u.memRead u.srcAddr.toNat 4 = flagBytes ∧
      u.memRead (u.srcAddr.toNat + headerLen) (paddedLen s.len) = s.encrypt (s.readRegion (s.srcRegion s.len)) := by
  have hpre := h.sealedPrefix
  rw [State.sealedPrefix, State.memRead, read_add] at hpre
  have hheader : (u.buf.read u.srcAddr.toNat headerLen).length = (flagBytes ++ s.readRegion s.pubRegion).length := by
    rw [read_length, List.length_append, readRegion_length]
    rfl
  obtain ⟨hflag, hct⟩ := List.append_inj hpre hheader
  have hflag' : u.buf.read u.srcAddr.toNat (4 + 33) = flagBytes ++ s.readRegion s.pubRegion := hflag
  rw [read_add] at hflag'
  exact ⟨(List.append_inj hflag' (read_length _ _ _)).1, hct⟩

/-- Every check of OPEN passes (R302, R321). -/
theorem State.OpensSealed.checks_pass : firstFail (openChecks u) = none := by
  obtain ⟨hflag, -⟩ := h.fields
  have hlen : u.len = headerLen + paddedLen s.len + u.tagLen := by rw [h.len, h.tagLen, State.sealedLen]
  have hpos : 16 ≤ paddedLen s.len := by unfold paddedLen; omega
  have hlong : 69 ≤ u.len := by
    obtain ht | ht := tagLen_cases u <;> simp only [hlen, headerLen, ht] <;> omega
  have hblocks : packetCtLen u.len u.tagLen % 16 = 0 := by
    have hopened : packetCtLen u.len u.tagLen = 16 * (s.len / 16 + 1) := h.openedLen
    rw [hopened, Nat.mul_mod_right]
  have hstructure := (decodeChecks_pass u (u.srcRegion u.len) u.tagLen).2 ⟨hlong, hflag, by
    change headerLen + u.tagLen < u.len
    omega, hblocks⟩
  have hdst := h.dst_fits
  have hapart := h.dst_apart
  rw [firstFail_eq_none, openChecks, List.forall_mem_append, List.forall_mem_cons, within_passes, h.openedLen]
  refine ⟨⟨h.src_fits, hstructure⟩, ?_⟩
  simp only [List.forall_mem_cons, List.not_mem_nil, false_imp_iff, implies_true, and_true, within_passes, apart_passes,
    hasKey_passes]
  exact ⟨hdst, fun h1 h2 h3 => by_contra fun h4 => hapart ⟨h1, h2, h3, Nat.lt_of_not_le h4⟩, h.keyValid⟩

theorem State.OpensSealed.tagOf (m : List Byte) : u.tagOf m = s.tagOf m := by
  rw [State.tagOf, State.tagOf, h.tagLen, State.keyHMAC, State.keyHMAC, h.keys]

/-- OPEN computes the tag that SEAL stored. -/
theorem State.OpensSealed.expectedTag : u.expectedTag = s.tagOf s.sealedPrefix := by
  rw [State.expectedTag, h.openedLen, h.sealedPrefix, h.tagOf]

/-- OPEN decrypts the ciphertext to the padded plaintext (R207). -/
theorem State.OpensSealed.decrypt (hkeys : s.keys.length = 64) :
    u.decrypt (u.memRead (u.srcAddr.toNat + headerLen) u.openedLen) =
      pkcs7Pad (s.readRegion (s.srcRegion s.len)) := by
  obtain ⟨-, hct⟩ := h.fields
  have hiv : s.keyIV.length = 16 := by simp [State.keyIV, hkeys]
  rw [h.openedLen, hct, State.decrypt, State.keyAES, State.keyIV, h.keys, State.encrypt]
  exact cbcDec_cbcEnc _ hiv (by rw [pkcs7Pad_length, Nat.mul_mod_right])

/-- With SEAL's tag, OPEN completes with the plaintext (R321). -/
theorem State.OpensSealed.exec_of_tag_eq (hkeys : s.keys.length = 64) (htag : u.foundTag = s.tagOf s.sealedPrefix) :
    exec .openPkt u =
      .next ((u.memWrite u.dstAddr.toNat (s.readRegion (s.srcRegion s.len))).complete s.len).autoClear := by
  have hlen : (s.readRegion (s.srcRegion s.len)).length = s.len := readRegion_length _ _
  have hpad : paddedLen s.len - padLen s.len = s.len := by unfold paddedLen padLen; omega
  have hcheck := pkcs7Check_pkcs7Pad (s.readRegion (s.srcRegion s.len))
  have hplain : slice (pkcs7Pad (s.readRegion (s.srcRegion s.len))) 0 s.len = s.readRegion (s.srcRegion s.len) := by
    rw [slice, pkcs7Pad, List.drop_zero, Nat.sub_zero, List.take_left' hlen]
  rw [exec, execOpen, openBody_of_tag_eq h.checks_pass (h.expectedTag.trans htag.symm), h.decrypt hkeys, State.unpadTo,
    hcheck, hlen, h.openedLen]
  simp only [State.dstRegion, hpad, hplain]

/-- With another tag, OPEN ends in ERR_AUTH and zero-fills its output region (R321). -/
theorem State.OpensSealed.exec_of_tag_ne (htag : u.foundTag ≠ s.tagOf s.sealedPrefix) :
    exec .openPkt u =
      .next ((u.memWrite u.dstAddr.toNat (bytes (paddedLen s.len) 0x00)).raiseErr .auth).autoClear := by
  rw [exec, execOpen, openBody_of_tag_ne h.checks_pass fun he => htag (he.symm.trans h.expectedTag), h.openedLen]
  rfl

end

/-! ### OPEN after SEAL (R326) -/

/-- `t` set to OPEN the packet that a SEAL of `s` stored in it: the keys loaded again, the buffer `m`, the output at `d`. -/
def State.openAfter (s t : State) (m : Memory) (d : Word) : State :=
  { t with
    srcAddr := s.dstAddr, srcLen := t.outLen, dstAddr := d, buf := m, keys := s.keys, keyValid := true }

section
variable {s t : State} (hw : s.buf.wf = true) (h : exec .sealPkt s = .next t) (hok : t.errCode = .ok)
include h hok

/-- OUT_LEN after the SEAL is the packet's length, which fits in 32 bits. -/
theorem outLen_of_seal : t.outLen.toNat = s.sealedLen := by
  obtain ⟨hfit, rfl⟩ := execSeal_of_ok h hok
  have hmax := bufBytes_le s
  rw [autoClear_outLen, complete_outLen, BitVec.toNat_ofNat]
  omega

theorem buf_of_seal : t.buf = (s.memWrite s.dstAddr.toNat s.sealedPacket).buf := by
  obtain ⟨-, rfl⟩ := execSeal_of_ok h hok
  rw [autoClear_buf, complete_buf]

include hw

theorem wf_of_seal : t.buf.wf = true := by
  rw [buf_of_seal h hok, memWrite_buf]
  exact write_wf hw _ _

/-- The two parts of the packet stand one behind the other in the buffer that SEAL leaves. -/
theorem read_of_seal :
    t.buf.read s.dstAddr.toNat (headerLen + paddedLen s.len) = s.sealedPrefix ∧
      t.buf.read (s.dstAddr.toNat + headerLen + paddedLen s.len) s.tagLen = s.tagOf s.sealedPrefix := by
  have hread := read_write_self hw s.dstAddr.toNat s.sealedPacket
  rw [State.sealedPacket, List.length_append, sealedPrefix_length, tagOf_length, read_add] at hread
  rw [buf_of_seal h hok, memWrite_buf, State.sealedPacket, Nat.add_assoc]
  exact List.append_inj hread (by rw [read_length, sealedPrefix_length])

/-- A buffer that holds the bytes before the packet's tag as SEAL left them is set for OPEN. -/
theorem opensSealed_of_seal {m : Memory} {d : Word}
    (hm : ∀ x, x < s.dstAddr.toNat + (headerLen + paddedLen s.len) → m.readByte x = t.buf.readByte x)
    (hfit : s.fits d.toNat (paddedLen s.len))
    (hapart : ¬ meets d.toNat (paddedLen s.len) s.dstAddr.toNat t.outLen.toNat) :
    s.OpensSealed (s.openAfter t m d) := by
  obtain ⟨hpre, -⟩ := read_of_seal hw h hok
  have hlen := outLen_of_seal h hok
  obtain ⟨hpacket, ht⟩ := execSeal_of_ok h hok
  have htag : t.tagLen = s.tagLen := by rw [ht]; simp
  have hbytes : t.bufBytes = s.bufBytes := by rw [ht]; simp
  have hread : m.read s.dstAddr.toNat (headerLen + paddedLen s.len) = s.sealedPrefix :=
    (read_congr fun x _ hx => hm x hx).trans hpre
  exact {
    keys := rfl
    keyValid := rfl
    tagLen := htag
    len := hlen
    src_fits := (Nat.add_le_add_left hlen.le _).trans (hpacket.trans hbytes.ge)
    dst_fits := hfit.trans hbytes.ge
    dst_apart := hapart
    sealedPrefix := hread }

/-- OPEN finds SEAL's tag exactly when the buffer still holds the bytes that SEAL left in its place. -/
theorem foundTag_eq_iff {m : Memory} {d : Word} (ho : s.OpensSealed (s.openAfter t m d)) :
    (s.openAfter t m d).foundTag = s.tagOf s.sealedPrefix ↔
      ∀ x, s.dstAddr.toNat + headerLen + paddedLen s.len ≤ x →
        x < s.dstAddr.toNat + headerLen + paddedLen s.len + s.tagLen → m.readByte x = t.buf.readByte x := by
  obtain ⟨-, htag⟩ := read_of_seal hw h hok
  have hfound : (s.openAfter t m d).foundTag =
      m.read (s.dstAddr.toNat + headerLen + paddedLen s.len) s.tagLen := by
    rw [State.foundTag, ho.openedLen, ho.tagLen]
    rfl
  rw [hfound, ← htag]
  exact ⟨fun heq _ => readByte_eq_of_read_eq heq, read_congr⟩

end

/-- Settles O58: OPEN finds the tag it computes, and decrypts to the padded plaintext. -/
theorem openReturnsWhatSealSealed : Obligations.OpenReturnsWhatSealSealed := by
  intro s t d hw hkeys h hok hfit hapart
  have ho : s.OpensSealed (s.openAfter t t.buf d) := opensSealed_of_seal hw h hok (fun _ _ => rfl) hfit hapart
  have hexec := ho.exec_of_tag_eq hkeys ((foundTag_eq_iff hw h hok ho).2 fun _ _ _ => rfl)
  have hwt := wf_of_seal hw h hok
  refine ⟨_, hexec, ?_, ?_, ?_⟩
  · rw [autoClear_errCode, complete_errCode]
  · rw [autoClear_outLen, complete_outLen, State.len, BitVec.ofNat_toNat, BitVec.setWidth_eq]
  · rw [bytesAt_of_buf ((autoClear_buf _).trans (complete_buf _ _))]
    exact (bytesAt_part hwt d.toNat (p := []) (List.append_nil _).symm rfl (readRegion_length s _)).trans
      (memRead_eq_bytesAt s _ _)

/-- Settles O59: canonical buffers that differ, and only in the tag, have different tags. -/
theorem tamperedTagIsRefused : Obligations.TamperedTagIsRefused := by
  intro s t m d hw h hok n a hm hdiff hne hfit hapart
  have hrest : ∀ x, x < a + (headerLen + paddedLen s.len) → m.readByte x = t.buf.readByte x := by
    intro x hx
    by_contra hchanged
    have hlow : a + 37 + paddedLen s.len ≤ x := (hdiff x hchanged).1
    unfold headerLen at hx
    omega
  have ho : s.OpensSealed (s.openAfter t m d) := opensSealed_of_seal hw h hok hrest hfit hapart
  have hwt := wf_of_seal hw h hok
  have htag : (s.openAfter t m d).foundTag ≠ s.tagOf s.sealedPrefix := by
    intro heq
    have hsame := (foundTag_eq_iff hw h hok ho).1 heq
    refine hne (eq_of_readByte hm hwt fun x => by_contra fun hchanged => hchanged ?_)
    obtain ⟨hlow, hhigh⟩ := hdiff x hchanged
    exact hsame x hlow hhigh
  refine ⟨_, ho.exec_of_tag_ne htag, ?_, ?_, fun x => ?_⟩
  · rw [autoClear_errCode, raiseErr_errCode]
  · rw [autoClear_outLen, raiseErr_outLen]
  · rw [autoClear_buf, raiseErr_buf, memWrite_buf]
    exact readByte_write_zeros hm d.toNat n x

end Sys2Proof.Machine
end

section
/-! PROOFS. The key commands (42_key_commands.md R240 to R243): the first failing check on the operands, and the state that
each command leaves. -/

namespace Sys2Proof.Machine

/-! ### The checks on the operands (R154, R241, R242) -/

/-- Check 2 on SRC_LEN itself, for a length that a 32-bit register holds. -/
theorem firstFail_lengthIs_word (s : State) {n : Nat} (hn : n < 2 ^ 32) (cs : List Check) :
    firstFail (s.lengthIs n :: cs) = if s.srcLen ≠ BitVec.ofNat 32 n then some .inputLen else firstFail cs :=
  firstFail_cons (by rw [BitVec.toNat_ne, BitVec.toNat_ofNat, Nat.mod_eq_of_lt hn, State.lengthIs, State.len, bne_iff_ne])

theorem firstFail_kdfChecks (x : Bool) (s : State) :
    firstFail (kdfChecks x s) =
      if s.srcLen ≠ 33 then some .inputLen
      else if ¬ s.fits s.srcAddr.toNat 33 then some .bounds
      else if x = true ∧ ¬ s.fits s.dstAddr.toNat 64 then some .bounds
      else if x = true ∧ meets s.dstAddr.toNat 64 s.srcAddr.toNat 33 then some .overlap
      else none := by
  have hinput (cs : List Check) : firstFail ([s.lengthIs 33, s.within (s.srcRegion 33)] ++ cs) =
      if s.srcLen ≠ 33 then some .inputLen
      else if ¬ s.fits s.srcAddr.toNat 33 then some .bounds else firstFail cs := by
    rw [List.cons_append, firstFail_lengthIs_word s (by decide), List.singleton_append, firstFail_within]; rfl
  rw [kdfChecks, hinput]
  cases x with
  | false => simp [firstFail]
  | true => simp only [if_true, true_and, firstFail_within, firstFail_apart]; rfl

theorem firstFail_keyloadChecks (s : State) :
    firstFail (keyloadChecks s) =
      if s.srcLen ≠ 64 then some .inputLen
      else if ¬ s.fits s.srcAddr.toNat 64 then some .bounds
      else none := by
  rw [keyloadChecks, firstFail_lengthIs_word s (by decide), firstFail_within]; rfl

/-! ### The state past the checks -/

theorem readRegion_srcRegion (s : State) (n : Nat) : s.readRegion (s.srcRegion n) = s.bytesAt s.srcAddr.toNat n :=
  memRead_eq_bytesAt s _ n

/-- A command that loads the key registers and completes (R46, R151). -/
theorem keyLoad_complete_eq (s : State) (k : List Byte) (n : Nat) :
    (s.keyLoad k).complete n = { s.endedWith .ok n with keys := k, keyValid := true } := by
  rw [complete_eq_endedWith]; rfl

/-- The digest is the key value, and with X = 1 it is what the output region holds (R241). -/
theorem execKdf_of_pass {x : Bool} {s : State} (hw : s.buf.wf = true) (hpass : firstFail (kdfChecks x s) = none) :
    ∃ t, exec (.kdf x) s = .next t ∧
      t = { s.endedWith .ok (if x then 64 else 0) with
        keys := sha512 (s.bytesAt s.srcAddr.toNat 33), keyValid := true, buf := t.buf } ∧
      s.storedOver t s.dstAddr.toNat (if x then sha512 (s.bytesAt s.srcAddr.toNat 33) else []) := by
  obtain ⟨e, he, -⟩ | ⟨-, hx⟩ := execKdf_cases x s
  · cases hpass.symm.trans he
  rw [readRegion_srcRegion, deriveKeys] at hx
  refine ⟨_, hx, ?_⟩
  generalize sha512 (s.bytesAt s.srcAddr.toNat 33) = k
  cases x with
  | false => exact ⟨keyLoad_complete_eq s _ 0, memWrite_storedOver s hw _ []⟩
  | true => exact ⟨complete_eq_endedWith _ 64, memWrite_storedOver s hw _ _⟩

/-! ### The statements -/

/-- Settles O42: the operands pick the first failing check, and past the checks the digest is loaded and, with X = 1,
stored. -/
theorem kdfDerivesTheKeys : Obligations.KdfDerivesTheKeys := by
  refine ⟨decode_encode (.kdf false), decode_encode (.kdf true), fun x s hw => ?_⟩
  obtain ⟨e, hf, hexec⟩ | ⟨hf, -⟩ := execKdf_cases x s
  · refine ⟨_, hexec, ?_⟩
    rw [raiseErr_eq_endedWith]
    rw [firstFail_kdfChecks] at hf
    split_ifs at hf ⊢
    all_goals cases hf; rfl
  · obtain ⟨t, hexec, hdone⟩ := execKdf_of_pass hw hf
    refine ⟨t, hexec, ?_⟩
    rw [firstFail_kdfChecks] at hf
    split_ifs at hf with hlen hsrc hdst hapart
    rwa [if_neg hlen, if_neg (not_not.2 hsrc), if_neg hdst, if_neg hapart]

/-- Settles O43: the operands pick the first failing check, and past the checks the bytes read are loaded. -/
theorem keyloadLoadsTheKeys : Obligations.KeyloadLoadsTheKeys := by
  refine ⟨decode_encode .keyload, fun s => ?_⟩
  rw [← readRegion_srcRegion, ← keyLoad_complete_eq, ← raiseErr_eq_endedWith, ← raiseErr_eq_endedWith]
  obtain ⟨e, hf, hx⟩ | ⟨hf, hx⟩ := execKeyload_cases s
  all_goals
    rw [firstFail_keyloadChecks] at hf
    split_ifs at hf ⊢
    all_goals cases hf; exact hx

/-- Settles O41: NOP is the completion alone. -/
theorem nopCompletes : Obligations.NopCompletes :=
  ⟨decode_encode .nop, fun s => congrArg Host.Outcome.next (complete_eq_endedWith s 0)⟩

/-- Settles O44: KEYCLEAR is the clear of the key registers, then the completion. -/
theorem keyclearClearsTheKeys : Obligations.KeyclearClearsTheKeys :=
  ⟨decode_encode .keyclear, fun s => congrArg Host.Outcome.next (complete_eq_endedWith s.keyClear 0)⟩

end Sys2Proof.Machine
end

section
/-! PROOFS. The cipher commands (43_cipher_commands.md R260, R261): the first failing check on the operands, and what each
command stores past its checks. -/

namespace Sys2Proof.Machine

/-! ### The checks on the operands (R154) -/

theorem firstFail_aesEncChecks (s : State) :
    firstFail (aesEncChecks s) =
      if ¬ s.fits s.srcAddr.toNat s.srcLen.toNat then some .bounds
      else if ¬ s.fits s.dstAddr.toNat (16 * (s.srcLen.toNat / 16 + 1)) then some .bounds
      else if meets s.dstAddr.toNat (16 * (s.srcLen.toNat / 16 + 1)) s.srcAddr.toNat s.srcLen.toNat then some .overlap
      else if s.keyValid = false then some .noKey
      else none := by
  rw [aesEncChecks, firstFail_within, firstFail_within, firstFail_apart, firstFail_hasKey]; rfl

theorem firstFail_aesDecChecks (s : State) :
    firstFail (aesDecChecks s) =
      if ¬ s.fits s.srcAddr.toNat s.srcLen.toNat then some .bounds
      else if s.srcLen.toNat = 0 ∨ s.srcLen.toNat % 16 ≠ 0 then some .ctLength
      else if ¬ s.fits s.dstAddr.toNat s.srcLen.toNat then some .bounds
      else if meets s.dstAddr.toNat s.srcLen.toNat s.srcAddr.toNat s.srcLen.toNat then some .overlap
      else if s.keyValid = false then some .noKey
      else none := by
  rw [aesDecChecks, firstFail_within, firstFail_wholeBlocks, firstFail_within, firstFail_apart, firstFail_hasKey]; rfl

/-- Outside the protocol commands no AUTOCLR follows: the first failing check is the whole effect (R154, R344). -/
theorem exec_eq_endedWith_of_firstFail {i : Instr} {s : State} {e : ErrCode} (hi : isProtocol i = false)
    (h : firstFail (checksOf i s) = some e) : exec i s = .next (s.endedWith e 0) := by
  rw [exec_of_firstFail h, hi, raiseErr_eq_endedWith]; rfl

/-! ### A result stored, then the completion (R151) -/

/-- A command that stores one string and ends changes no more than its end and the bytes of that string. -/
theorem memWrite_endedWith_spec (s : State) (hw : s.buf.wf = true) (a : Nat) (v : List Byte) (e : ErrCode) (n : Nat) :
    (s.memWrite a v).endedWith e n = { s.endedWith e n with buf := ((s.memWrite a v).endedWith e n).buf } ∧
      s.storedOver ((s.memWrite a v).endedWith e n) a v :=
  ⟨rfl, memWrite_storedOver s hw a v⟩

/-- Bad padding zero-fills the whole output region (R261). -/
theorem unpadTo_of_bad_padding {s : State} (hw : s.buf.wf = true) (out : Region) {d : List Byte} (bad : ErrCode)
    (hpad : pkcs7Check d = none) :
    s.unpadTo out d bad = { s.endedWith bad 0 with buf := (s.unpadTo out d bad).buf } ∧
      s.storedOver (s.unpadTo out d bad) out.addr (List.replicate out.len 0) := by
  obtain ⟨-, hu⟩ | ⟨p, hp, -⟩ := unpadTo_cases s out d bad
  · rw [hu, State.failClosed, raiseErr_eq_endedWith]
    exact memWrite_endedWith_spec s hw _ _ _ _
  · cases hpad.symm.trans hp

/-- The bytes before the p bytes of padding are stored, and no others (R261). -/
theorem unpadTo_of_padding {s : State} (hw : s.buf.wf = true) (out : Region) {d : List Byte} (bad : ErrCode) {p : Nat}
    (hpad : pkcs7Check d = some p) :
    s.unpadTo out d bad = { s.endedWith .ok (out.len - p) with buf := (s.unpadTo out d bad).buf } ∧
      s.storedOver (s.unpadTo out d bad) out.addr (d.take (out.len - p)) := by
  obtain ⟨hn, -⟩ | ⟨q, hq, hu⟩ := unpadTo_cases s out d bad
  · cases hpad.symm.trans hn
  · cases hpad.symm.trans hq
    rw [hu, complete_eq_endedWith]
    exact memWrite_endedWith_spec s hw _ _ _ _

/-- AES_ENC past its checks (R260). -/
theorem exec_aesEnc_of_pass {s : State} (hpass : firstFail (aesEncChecks s) = none) :
    exec .aesEnc s = .next
      ((s.memWrite s.dstAddr.toNat (s.encrypt (s.bytesAt s.srcAddr.toNat s.len))).endedWith .ok (paddedLen s.len)) := by
  obtain ⟨e, he, -⟩ | ⟨-, hx⟩ := execAesEnc_cases s
  · cases hpass.symm.trans he
  · rwa [readRegion_srcRegion, complete_eq_endedWith] at hx

/-- AES_DEC past its checks (R261). -/
theorem exec_aesDec_of_pass {s : State} (hpass : firstFail (aesDecChecks s) = none) :
    exec .aesDec s = .next
      (s.unpadTo (s.dstRegion s.len) (s.decrypt (s.bytesAt s.srcAddr.toNat s.len)) .padding) := by
  obtain ⟨e, he, -⟩ | ⟨-, hx⟩ := execAesDec_cases s
  · cases hpass.symm.trans he
  · rwa [readRegion_srcRegion] at hx

/-! ### The statements -/

/-- Settles O45: the operands pick the first failing check, and past the checks the ciphertext, of n bytes, is stored. -/
theorem aesEncEncrypts : Obligations.AesEncEncrypts := by
  refine ⟨decode_encode .aesEnc, fun s hw => ?_⟩
  have hchecks := firstFail_aesEncChecks s
  intro l n
  split_ifs at hchecks ⊢
  -- The one case in which every check passes.
  case neg =>
    have hlen : (s.encrypt (s.bytesAt s.srcAddr.toNat s.len)).length = paddedLen s.len := by
      rw [encrypt_length, bytesAt_length]
    exact ⟨_, exec_aesEnc_of_pass hchecks, hlen, memWrite_endedWith_spec s hw _ _ _ _⟩
  all_goals exact ⟨_, exec_eq_endedWith_of_firstFail rfl hchecks, rfl⟩

/-- Settles O46: the operands pick the first failing check, and past the checks the padding check picks between the
zero-fill and the plaintext. -/
theorem aesDecDecrypts : Obligations.AesDecDecrypts := by
  refine ⟨decode_encode .aesDec, fun s hw => ?_⟩
  have hchecks := firstFail_aesDecChecks s
  intro l
  split_ifs at hchecks ⊢
  -- The one case in which every check passes.
  case neg =>
    refine ⟨_, exec_aesDec_of_pass hchecks, ?_⟩
    intro d
    cases hpad : pkcs7Check d with
    | none => exact unpadTo_of_bad_padding hw _ _ hpad
    | some p => exact unpadTo_of_padding hw _ _ hpad
  all_goals exact ⟨_, exec_eq_endedWith_of_firstFail rfl hchecks, rfl⟩

end Sys2Proof.Machine
end

section
/-! PROOFS. The authenticator commands (44_mac_commands.md R280, R281): the first failing check on the operands, the tag
as the first T bytes of the HMAC, and what each command leaves past its checks. -/

namespace Sys2Proof.Machine

/-! ### The checks on the operands (R154) -/

theorem firstFail_macGenChecks (s : State) :
    firstFail (macGenChecks s) =
      if ¬ s.fits s.srcAddr.toNat s.srcLen.toNat then some .bounds
      else if ¬ s.fits s.dstAddr.toNat s.t then some .bounds
      else if meets s.dstAddr.toNat s.t s.srcAddr.toNat s.srcLen.toNat then some .overlap
      else if s.keyValid = false then some .noKey
      else none := by
  rw [macGenChecks, firstFail_within, firstFail_within, firstFail_apart, firstFail_hasKey]; rfl

theorem firstFail_macVerifyChecks (s : State) :
    firstFail (macVerifyChecks s) =
      if ¬ s.fits s.srcAddr.toNat s.srcLen.toNat then some .bounds
      else if ¬ s.fits s.tagAddr.toNat s.t then some .bounds
      else if s.keyValid = false then some .noKey
      else none := by
  rw [macVerifyChecks, firstFail_within, firstFail_within, firstFail_hasKey]; rfl

/-! ### The tag (R194, R195) -/

theorem tagOf_eq_take (s : State) (m : List Byte) : s.tagOf m = (hmac256 (slice s.keys 32 64) m).take s.t := rfl

theorem readRegion_tagRegion (s : State) : s.readRegion s.tagRegion = s.bytesAt s.tagAddr.toNat s.t :=
  memRead_eq_bytesAt s _ _

/-- The tag computed and the tag read are both T bytes, so their comparison is equality. -/
theorem ctEq_tagOf_bytesAt_iff (s : State) (m : List Byte) (a : Nat) :
    ctEq (s.tagOf m) (s.bytesAt a s.t) = true ↔ s.tagOf m = s.bytesAt a s.t :=
  ctEq_iff ((tagOf_length s m).trans (bytesAt_length s a s.t).symm)

/-! ### The state past the checks -/

/-- MAC_GEN past its checks (R280). -/
theorem exec_macGen_of_pass {s : State} (hpass : firstFail (macGenChecks s) = none) :
    exec .macGen s = .next
      ((s.memWrite s.dstAddr.toNat (s.tagOf (s.bytesAt s.srcAddr.toNat s.len))).endedWith .ok s.t) := by
  obtain ⟨e, he, -⟩ | ⟨-, hx⟩ := execMacGen_cases s
  · cases hpass.symm.trans he
  · rwa [readRegion_srcRegion, complete_eq_endedWith] at hx

/-- MAC_VERIFY past its checks (R281): the comparison picks the code. -/
theorem exec_macVerify_of_pass {s : State} (hpass : firstFail (macVerifyChecks s) = none) :
    exec .macVerify s =
      if ctEq (s.tagOf (s.bytesAt s.srcAddr.toNat s.len)) (s.bytesAt s.tagAddr.toNat s.t) then
        .next (s.endedWith .ok 0)
      else .next (s.endedWith .auth 0) := by
  change execMacVerify s = _
  rw [execMacVerify, hpass, readRegion_srcRegion, readRegion_tagRegion, complete_eq_endedWith, raiseErr_eq_endedWith]

theorem exec_macVerify_of_tag_eq {s : State} (hpass : firstFail (macVerifyChecks s) = none)
    (htag : s.tagOf (s.bytesAt s.srcAddr.toNat s.len) = s.bytesAt s.tagAddr.toNat s.t) :
    exec .macVerify s = .next (s.endedWith .ok 0) := by
  rw [exec_macVerify_of_pass hpass, if_pos ((ctEq_tagOf_bytesAt_iff s _ _).2 htag)]

theorem exec_macVerify_of_tag_ne {s : State} (hpass : firstFail (macVerifyChecks s) = none)
    (htag : s.tagOf (s.bytesAt s.srcAddr.toNat s.len) ≠ s.bytesAt s.tagAddr.toNat s.t) :
    exec .macVerify s = .next (s.endedWith .auth 0) := by
  rw [exec_macVerify_of_pass hpass, if_neg (mt (ctEq_tagOf_bytesAt_iff s _ _).1 htag)]

/-! ### The statements -/

/-- Settles O47: the operands pick the first failing check, and past the checks the T bytes of the tag are stored. -/
theorem macGenWritesTheTag : Obligations.MacGenWritesTheTag := by
  refine ⟨decode_encode .macGen, fun s hw => ?_⟩
  have hchecks := firstFail_macGenChecks s
  intro l
  rw [← tagOf_eq_take]
  split_ifs at hchecks ⊢
  -- The one case in which every check passes.
  case neg => exact ⟨_, exec_macGen_of_pass hchecks, memWrite_endedWith_spec s hw _ _ _ _⟩
  all_goals exact ⟨_, exec_eq_endedWith_of_firstFail rfl hchecks, rfl⟩

/-- Settles O48: the operands pick the first failing check, and past the checks the comparison picks between ERR_AUTH
and success. -/
theorem macVerifyComparesTheTag : Obligations.MacVerifyComparesTheTag := by
  refine ⟨decode_encode .macVerify, fun s => ?_⟩
  have hchecks := firstFail_macVerifyChecks s
  intro l
  rw [← tagOf_eq_take]
  split_ifs at hchecks ⊢ with hsrc hfound hkey htag
  · exact exec_eq_endedWith_of_firstFail rfl hchecks
  -- Every check passes: the tags differ, or they agree.
  · exact exec_macVerify_of_tag_ne hchecks htag
  · exact exec_macVerify_of_tag_eq hchecks (not_not.1 htag)
  all_goals exact exec_eq_endedWith_of_firstFail rfl hchecks

end Sys2Proof.Machine
end

section
/-! PROOFS. The packet codec commands (45_packet_commands.md R300 to R302): the first failing check on the operands, and
what each command leaves past its checks. -/

namespace Sys2Proof.Machine

/-! ### The checks on the operands (R154, R300, R301) -/

/-- The three overlap checks raise one code, so they are one condition. -/
theorem firstFail_pktEncodeChecks (s : State) :
    firstFail (pktEncodeChecks s) =
      if ¬ s.fits s.srcAddr.toNat s.srcLen.toNat then some .bounds
      else if ¬ s.fits s.pubAddr.toNat 33 then some .bounds
      else if ¬ s.fits s.tagAddr.toNat s.t then some .bounds
      else if ¬ s.fits s.dstAddr.toNat (37 + s.srcLen.toNat + s.t) then some .bounds
      else if meets s.dstAddr.toNat (37 + s.srcLen.toNat + s.t) s.srcAddr.toNat s.srcLen.toNat ∨
          meets s.dstAddr.toNat (37 + s.srcLen.toNat + s.t) s.pubAddr.toNat 33 ∨
          meets s.dstAddr.toNat (37 + s.srcLen.toNat + s.t) s.tagAddr.toNat s.t then some .overlap
      else none := by
  rw [pktEncodeChecks, firstFail_within, firstFail_within, firstFail_within, firstFail_within, firstFail_apart,
    firstFail_apart, firstFail_apart, ite_or, ite_or]
  rfl

theorem firstFail_pktDecodeChecks (s : State) :
    firstFail (pktDecodeChecks s) =
      if ¬ s.fits s.srcAddr.toNat s.srcLen.toNat then some .bounds
      else if s.srcLen.toNat < 69 then some .malformedPacket
      else if s.bytesAt s.srcAddr.toNat 4 ≠ [0x42, 0x49, 0x45, 0x31] then some .malformedPacket
      else if (s.srcLen.toNat : Int) - 37 - s.t ≤ 0 ∨ ((s.srcLen.toNat : Int) - 37 - s.t) % 16 ≠ 0 then some .ctLength
      else none := by
  rw [pktDecodeChecks, firstFail_within, ← List.append_nil (s.decodeChecks _ _), firstFail_decodeChecks,
    memRead_eq_bytesAt]
  rfl

/-! ### The state past the checks -/

/-- The packet's four fields as the bytes that the operand registers point at (R116, R300). -/
theorem encodedPacket_eq (s : State) :
    s.encodedPacket = [0x42, 0x49, 0x45, 0x31] ++ s.bytesAt s.pubAddr.toNat 33 ++
      s.bytesAt s.srcAddr.toNat s.srcLen.toNat ++ s.bytesAt s.tagAddr.toNat s.t := by
  rw [State.encodedPacket, readRegion_srcRegion, readRegion_tagRegion, State.readRegion, memRead_eq_bytesAt]
  rfl

/-- PKT_ENCODE past its checks (R300). -/
theorem exec_pktEncode_of_pass {s : State} (hpass : firstFail (pktEncodeChecks s) = none) :
    exec .pktEncode s = .next ((s.memWrite s.dstAddr.toNat s.encodedPacket).endedWith .ok s.encodedLen) := by
  obtain ⟨e, he, -⟩ | ⟨-, hx⟩ := execPktEncode_cases s
  · cases hpass.symm.trans he
  · rwa [complete_eq_endedWith] at hx

/-- PKT_DECODE past its checks (R301). -/
theorem exec_pktDecode_of_pass {s : State} (hpass : firstFail (pktDecodeChecks s) = none) :
    exec .pktDecode s = .next (s.endedWith .ok (packetCtLen s.len s.tagLen)) := by
  obtain ⟨e, he, -⟩ | ⟨-, hx⟩ := execPktDecode_cases s
  · cases hpass.symm.trans he
  · rwa [complete_eq_endedWith] at hx

/-! ### The statements -/

/-- Settles O49: the operands pick the first failing check, and past the checks the packet is stored. -/
theorem pktEncodeWritesThePacket : Obligations.PktEncodeWritesThePacket := by
  refine ⟨decode_encode .pktEncode, fun s hw => ?_⟩
  have hchecks := firstFail_pktEncodeChecks s
  intro l m
  rw [← encodedPacket_eq]
  split_ifs at hchecks ⊢
  -- The one case in which every check passes.
  case neg => exact ⟨_, exec_pktEncode_of_pass hchecks, memWrite_endedWith_spec s hw _ _ _ _⟩
  all_goals exact ⟨_, exec_eq_endedWith_of_firstFail rfl hchecks, rfl⟩

/-- Settles O50: the operands pick the first failing check, and past the checks OUT_LEN is the ciphertext's length. -/
theorem pktDecodeChecksThePacket : Obligations.PktDecodeChecksThePacket := by
  refine ⟨decode_encode .pktDecode, fun s => ?_⟩
  have hchecks := firstFail_pktDecodeChecks s
  intro l
  split_ifs at hchecks ⊢
  -- The one case in which every check passes.
  case neg => exact exec_pktDecode_of_pass hchecks
  all_goals exact exec_eq_endedWith_of_firstFail rfl hchecks

end Sys2Proof.Machine
end

section
/-! PROOFS. The protocol commands (46_protocol_commands.md R320 to R324): the first failing check on the operands, what each
command stores past its checks, AUTOCLR after it, and the two bits of CTRL that reach no further than their rules say. -/

namespace Sys2Proof.Machine

/-! ### The checks on the operands (R154, R320, R321) -/

/-- The two overlap checks raise one code, so they are one condition. -/
theorem firstFail_sealChecks (s : State) :
    firstFail (sealChecks s) =
      if ¬ s.fits s.srcAddr.toNat s.srcLen.toNat then some .bounds
      else if ¬ s.fits s.pubAddr.toNat 33 then some .bounds
      else if ¬ s.fits s.dstAddr.toNat (37 + 16 * (s.srcLen.toNat / 16 + 1) + s.t) then some .bounds
      else if meets s.dstAddr.toNat (37 + 16 * (s.srcLen.toNat / 16 + 1) + s.t) s.srcAddr.toNat s.srcLen.toNat ∨
          meets s.dstAddr.toNat (37 + 16 * (s.srcLen.toNat / 16 + 1) + s.t) s.pubAddr.toNat 33 then some .overlap
      else if s.keyValid = false then some .noKey
      else none := by
  rw [sealChecks, firstFail_within, firstFail_within, firstFail_within, firstFail_apart, firstFail_apart,
    firstFail_hasKey, ite_or]
  rfl

theorem firstFail_openChecks (s : State) :
    firstFail (openChecks s) =
      if ¬ s.fits s.srcAddr.toNat s.srcLen.toNat then some .bounds
      else if s.srcLen.toNat < 69 then some .malformedPacket
      else if s.bytesAt s.srcAddr.toNat 4 ≠ [0x42, 0x49, 0x45, 0x31] then some .malformedPacket
      else if (s.srcLen.toNat : Int) - 37 - s.t ≤ 0 ∨ ((s.srcLen.toNat : Int) - 37 - s.t) % 16 ≠ 0 then some .ctLength
      else if ¬ s.fits s.dstAddr.toNat (s.srcLen.toNat - 37 - s.t) then some .bounds
      else if meets s.dstAddr.toNat (s.srcLen.toNat - 37 - s.t) s.srcAddr.toNat s.srcLen.toNat then some .overlap
      else if s.keyValid = false then some .noKey
      else none := by
  rw [openChecks, List.cons_append, firstFail_within, firstFail_decodeChecks, firstFail_within, firstFail_apart,
    firstFail_hasKey, memRead_eq_bytesAt]
  rfl

/-! ### A command that ends with AUTOCLR (R151, R322) -/

/-- The first failing check of SEAL and OPEN is their whole effect but for AUTOCLR (R154, R344). -/
theorem exec_eq_endedWith_afterAutoclr_of_firstFail {i : Instr} {s : State} {e : ErrCode} (hi : isProtocol i = true)
    (h : firstFail (checksOf i s) = some e) : exec i s = .next (s.endedWith e 0).afterAutoclr := by
  rw [exec_of_firstFail h, hi, if_pos rfl, autoClear_eq_afterAutoclr, raiseErr_eq_endedWith]

/-- AUTOCLR after a body that ends and stores a string: the end's registers with AUTOCLR applied, and the same bytes stored. -/
theorem autoClear_spec {s t : State} {a : Nat} {v : List Byte} {e : ErrCode} {n : Nat}
    (h : t = { s.endedWith e n with buf := t.buf } ∧ s.storedOver t a v) :
    t.autoClear = ({ s.endedWith e n with buf := t.autoClear.buf } : State).afterAutoclr ∧
      s.storedOver t.autoClear a v := by
  obtain ⟨hframe, hstored⟩ := h
  refine ⟨?_, fun x => ?_⟩
  · rw [autoClear_buf, ← hframe, autoClear_eq_afterAutoclr]
  · rw [autoClear_buf]
    exact hstored x

/-! ### SEAL past its checks (R320) -/

/-- The packet's fields as the bytes that the operand registers point at, and the tag over them (R116, R320). -/
theorem sealedPacket_eq (s : State) :
    s.sealedPacket =
      let x := [0x42, 0x49, 0x45, 0x31] ++ s.bytesAt s.pubAddr.toNat 33 ++
        cbcEnc (slice s.keys 16 32) (slice s.keys 0 16) (pkcs7Pad (s.bytesAt s.srcAddr.toNat s.srcLen.toNat))
      x ++ (hmac256 (slice s.keys 32 64) x).take s.t := by
  rw [State.sealedPacket, State.sealedPrefix, readRegion_srcRegion, State.readRegion, memRead_eq_bytesAt]
  rfl

theorem exec_seal_of_pass {s : State} (hpass : firstFail (sealChecks s) = none) :
    exec .sealPkt s = .next ((s.memWrite s.dstAddr.toNat s.sealedPacket).endedWith .ok s.sealedLen).autoClear := by
  obtain ⟨e, he, -⟩ | ⟨-, hx⟩ := sealBody_cases s
  · cases hpass.symm.trans he
  · rw [exec, execSeal, hx, complete_eq_endedWith]
    rfl

/-! ### OPEN past its checks (R321) -/

theorem expectedTag_eq (s : State) :
    s.expectedTag =
      (hmac256 (slice s.keys 32 64) (s.bytesAt s.srcAddr.toNat (37 + (s.srcLen.toNat - 37 - s.t)))).take s.t := by
  rw [State.expectedTag, memRead_eq_bytesAt]
  rfl

theorem foundTag_eq (s : State) :
    s.foundTag = s.bytesAt (s.srcAddr.toNat + 37 + (s.srcLen.toNat - 37 - s.t)) s.t :=
  memRead_eq_bytesAt s _ _

/-- What OPEN decrypts once the tag has passed. -/
def State.openedBytes (s : State) : List Byte := s.decrypt (s.memRead (s.srcAddr.toNat + headerLen) s.openedLen)

theorem openedBytes_eq (s : State) :
    s.openedBytes = cbcDec (slice s.keys 16 32) (slice s.keys 0 16)
      (s.bytesAt (s.srcAddr.toNat + 37) (s.srcLen.toNat - 37 - s.t)) := by
  rw [State.openedBytes, memRead_eq_bytesAt]
  rfl

theorem openPaddingCode_eq (s : State) :
    s.openPaddingCode = if s.ctrl.getLsbD 3 then .auth else .padding := rfl

/-- The zero-fill writes zeros over its region and ends in the code given (R321). -/
theorem failClosed_spec {s : State} (hw : s.buf.wf = true) (out : Region) (e : ErrCode) :
    s.failClosed out e = { s.endedWith e 0 with buf := (s.failClosed out e).buf } ∧
      s.storedOver (s.failClosed out e) out.addr (List.replicate out.len 0) := by
  rw [State.failClosed, raiseErr_eq_endedWith]
  exact memWrite_endedWith_spec s hw _ _ _ _

theorem openBody_of_firstFail {s : State} {e : ErrCode} (h : firstFail (openChecks s) = some e) :
    openBody s = s.raiseErr e := by
  obtain ⟨e', he, hx⟩ | ⟨hpass, -⟩ := openBody_cases s
  · cases he.symm.trans h
    exact hx
  · cases hpass.symm.trans h

/-- With a wrong tag OPEN ends in ERR_AUTH and zero-fills its output region. -/
theorem exec_open_of_tag_ne {s : State} (hw : s.buf.wf = true) (hpass : firstFail (openChecks s) = none)
    (htag : s.expectedTag ≠ s.foundTag) :
    ∃ t, exec .openPkt s = .next t ∧ t = ({ s.endedWith .auth 0 with buf := t.buf } : State).afterAutoclr ∧
      s.storedOver t s.dstAddr.toNat (List.replicate s.openedLen 0) := by
  refine ⟨_, rfl, ?_⟩
  rw [openBody_of_tag_ne hpass htag]
  exact autoClear_spec (failClosed_spec hw _ _)

/-- With the right tag OPEN ends as a decryption does, with its own code for bad padding. -/
theorem exec_open_of_tag_eq {s : State} (hpass : firstFail (openChecks s) = none)
    (htag : s.expectedTag = s.foundTag) :
    exec .openPkt s = .next (s.unpadTo (s.dstRegion s.openedLen) s.openedBytes s.openPaddingCode).autoClear := by
  rw [exec, execOpen, openBody_of_tag_eq hpass htag]
  rfl

/-- An OPEN that ends in an error leaves the buffer or zero-fills its output region (R323). -/
theorem openBody_buf_of_error {s : State} (h : (openBody s).errCode ≠ .ok) :
    (openBody s).buf = s.buf ∨ (openBody s).buf = s.buf.write s.dstAddr.toNat (bytes s.openedLen 0x00) := by
  obtain ⟨e, -, hx⟩ | ⟨-, hx | hx⟩ := openBody_cases s
  · exact .inl (hx ▸ rfl)
  · exact .inr (hx ▸ rfl)
  · obtain ⟨-, hu⟩ | ⟨p, -, hu⟩ := unpadTo_cases s (s.dstRegion s.openedLen) s.openedBytes s.openPaddingCode
    · exact .inr ((hx.trans hu) ▸ rfl)
    · exact absurd ((hx.trans hu) ▸ rfl) h

/-- An OPEN that ends in ERRCODE 0 has found the tag it computed (R323). -/
theorem tags_eq_of_openBody_ok {s : State} (h : (openBody s).errCode = .ok) : s.expectedTag = s.foundTag := by
  by_contra htag
  obtain ⟨e, he, hx⟩ | ⟨hpass, -⟩ := openBody_cases s
  · rw [hx] at h
    exact ne_ok_of_firstFail (i := .openPkt) he h
  · rw [openBody_of_tag_ne hpass htag] at h
    cases h

/-! ### CTRL exchanged

The commands read T of CTRL, by the operations below, and OPEN reads UNIFY; nothing else of CTRL reaches a body. -/

/-- `s` with CTRL = `c`. -/
def State.withCtrl (s : State) (c : BitVec 4) : State := { s with ctrl := c }

theorem withCtrl_tagLen {s : State} {c : BitVec 4} (h : c.getLsbD 1 = s.ctrl.getLsbD 1) :
    (s.withCtrl c).tagLen = s.tagLen :=
  congrArg (fun b : Bool => if b then 16 else 32) h

section
variable (s : State) (c : BitVec 4)

@[simp] theorem withCtrl_len : (s.withCtrl c).len = s.len := rfl
@[simp] theorem withCtrl_srcAddr : (s.withCtrl c).srcAddr = s.srcAddr := rfl
@[simp] theorem withCtrl_dstAddr : (s.withCtrl c).dstAddr = s.dstAddr := rfl
@[simp] theorem withCtrl_srcRegion (n : Nat) : (s.withCtrl c).srcRegion n = s.srcRegion n := rfl
@[simp] theorem withCtrl_dstRegion (n : Nat) : (s.withCtrl c).dstRegion n = s.dstRegion n := rfl
@[simp] theorem withCtrl_pubRegion : (s.withCtrl c).pubRegion = s.pubRegion := rfl
@[simp] theorem withCtrl_memRead (a n : Nat) : (s.withCtrl c).memRead a n = s.memRead a n := rfl
@[simp] theorem withCtrl_readRegion (r : Region) : (s.withCtrl c).readRegion r = s.readRegion r := rfl
@[simp] theorem withCtrl_encrypt (p : List Byte) : (s.withCtrl c).encrypt p = s.encrypt p := rfl
@[simp] theorem withCtrl_decrypt (d : List Byte) : (s.withCtrl c).decrypt d = s.decrypt d := rfl
@[simp] theorem withCtrl_within (r : Region) : (s.withCtrl c).within r = s.within r := rfl
@[simp] theorem withCtrl_decodeChecks (r : Region) (t : Nat) :
    (s.withCtrl c).decodeChecks r t = s.decodeChecks r t := rfl
@[simp] theorem withCtrl_hasKey : (s.withCtrl c).hasKey = s.hasKey := rfl
@[simp] theorem withCtrl_memWrite (a : Nat) (v : List Byte) :
    (s.withCtrl c).memWrite a v = (s.memWrite a v).withCtrl c := rfl
@[simp] theorem withCtrl_keyLoad (k : List Byte) : (s.withCtrl c).keyLoad k = (s.keyLoad k).withCtrl c := rfl
@[simp] theorem withCtrl_complete (n : Nat) : (s.withCtrl c).complete n = (s.complete n).withCtrl c := rfl
@[simp] theorem withCtrl_raiseErr (e : ErrCode) : (s.withCtrl c).raiseErr e = (s.raiseErr e).withCtrl c := rfl

@[simp] theorem withCtrl_unpadTo (out : Region) (d : List Byte) (bad : ErrCode) :
    (s.withCtrl c).unpadTo out d bad = (s.unpadTo out d bad).withCtrl c := by
  unfold State.unpadTo
  cases pkcs7Check d <;> rfl

end

section
variable {s : State} {c : BitVec 4} (ht : (s.withCtrl c).tagLen = s.tagLen)
include ht

theorem withCtrl_tagOf (m : List Byte) : (s.withCtrl c).tagOf m = s.tagOf m :=
  congrArg (macTag s.keyHMAC m) ht

theorem withCtrl_tagRegion : (s.withCtrl c).tagRegion = s.tagRegion :=
  congrArg (Region.mk s.tagAddr.toNat) ht

theorem withCtrl_encodedLen : (s.withCtrl c).encodedLen = s.encodedLen :=
  congrArg (headerLen + s.len + ·) ht

theorem withCtrl_sealedLen : (s.withCtrl c).sealedLen = s.sealedLen :=
  congrArg (headerLen + paddedLen s.len + ·) ht

theorem withCtrl_openedLen : (s.withCtrl c).openedLen = s.openedLen :=
  congrArg (packetCtLen s.len) ht

/-- Of CTRL the checks read T only. -/
theorem checksOf_withCtrl (i : Instr) : checksOf i (s.withCtrl c) = checksOf i s := by
  cases i with
  | nop | keyclear | kdf | keyload | aesEnc | aesDec => rfl
  | macGen | macVerify | pktEncode | pktDecode | sealPkt | openPkt =>
    simp [checksOf, macGenChecks, macVerifyChecks, pktEncodeChecks, pktDecodeChecks, sealChecks, openChecks, ht,
      withCtrl_tagRegion ht, withCtrl_encodedLen ht, withCtrl_sealedLen ht, withCtrl_openedLen ht]

/-- Of CTRL a command past its checks, other than SEAL and OPEN, reads T only. -/
theorem exec_withCtrl_of_pass {i : Instr} (hi : isProtocol i = false) (hpass : firstFail (checksOf i s) = none)
    {t : State} (h : exec i s = .next t) : exec i (s.withCtrl c) = .next (t.withCtrl c) := by
  have hpass' := (congrArg firstFail (checksOf_withCtrl ht i)).trans hpass
  cases i with
  | sealPkt | openPkt => cases hi
  | nop | keyclear => cases h; rfl
  | kdf x =>
    rw [checksOf] at hpass hpass'
    simp only [exec, execKdf, hpass] at h
    cases x <;> cases h <;> simp [exec, execKdf, hpass']
  | macVerify =>
    rw [checksOf] at hpass hpass'
    simp only [exec, execMacVerify, hpass] at h
    simp only [exec, execMacVerify, hpass', withCtrl_tagOf ht, withCtrl_tagRegion ht, withCtrl_readRegion,
      withCtrl_srcRegion, withCtrl_len]
    split at h
    case isTrue htag => cases h; rw [if_pos htag, withCtrl_complete]
    case isFalse htag => cases h; rw [if_neg htag, withCtrl_raiseErr]
  | keyload | aesEnc | aesDec | macGen | pktEncode | pktDecode =>
    rw [checksOf] at hpass hpass'
    simp only [exec, execKeyload, execAesEnc, execAesDec, execMacGen, execPktEncode, execPktDecode, hpass] at h
    cases h
    simp [exec, execKeyload, execAesEnc, execAesDec, execMacGen, execPktEncode, execPktDecode, hpass', ht,
      withCtrl_tagOf ht, withCtrl_tagRegion ht, withCtrl_encodedLen ht]

/-- Of CTRL a command other than SEAL and OPEN reads T only: it acts alike with another CTRL of the same T. -/
theorem exec_withCtrl {i : Instr} (hi : isProtocol i = false) {t : State} (h : exec i s = .next t) :
    exec i (s.withCtrl c) = .next (t.withCtrl c) := by
  cases hf : firstFail (checksOf i s) with
  | none => exact exec_withCtrl_of_pass ht hi hf h
  | some e =>
    have hf' := (congrArg firstFail (checksOf_withCtrl ht i)).trans hf
    have hx := exec_of_firstFail hf
    have hx' := exec_of_firstFail hf'
    rw [hi] at hx hx'
    cases hx.symm.trans h
    exact hx'

theorem withCtrl_tags : (s.withCtrl c).expectedTag = s.expectedTag ∧ (s.withCtrl c).foundTag = s.foundTag := by
  simp [State.expectedTag, State.foundTag, withCtrl_tagOf ht, withCtrl_openedLen ht, ht]

end

/-! ### UNIFY (R324) -/

/-- `t` with CTRL = `c` and ERR_AUTH in the place of ERR_PADDING. -/
def State.unified (t : State) (c : BitVec 4) : State :=
  { t with ctrl := c, errCode := if t.errCode = .padding then .auth else t.errCode }

theorem unified_of_ne_padding {t : State} (c : BitVec 4) (h : t.errCode ≠ .padding) : t.unified c = t.withCtrl c := by
  rw [State.unified, if_neg h]
  rfl

/-- AUTOCLR acts alike before and after the code is exchanged, when its own bit stays. -/
theorem autoClear_unified {t : State} {c : BitVec 4} (h : c.getLsbD 2 = t.ctrl.getLsbD 2) :
    (t.unified c).autoClear = t.autoClear.unified c := by
  have hbit : (t.unified c).autoclr = t.autoclr := h
  unfold State.autoClear
  rw [hbit]
  split <;> rfl

/-- No check of OPEN has the code of a padding failure (R154). -/
theorem openChecks_code_ne_padding {s : State} {e : ErrCode} (h : firstFail (openChecks s) = some e) : e ≠ .padding := by
  have hcodes : ∀ c ∈ openChecks s, c.2 ≠ .padding := by simp [openChecks, State.decodeChecks]
  exact hcodes _ (firstFail_mem h)

/-- The end of a decryption with ERR_AUTH for bad padding is the end with ERR_PADDING, the code exchanged. -/
theorem unpadTo_unified (s : State) (c : BitVec 4) (out : Region) (d : List Byte) :
    s.unpadTo out d .auth = ((s.withCtrl c).unpadTo out d .padding).unified s.ctrl := by
  unfold State.unpadTo
  cases pkcs7Check d <;> rfl

/-- With UNIFY set OPEN's body ends as it does with UNIFY clear, but for the code of a padding failure. -/
theorem openBody_unified {s : State} {c : BitVec 4} (ht : (s.withCtrl c).tagLen = s.tagLen) (hset : s.unify = true)
    (hclear : (s.withCtrl c).unify = false) : openBody s = (openBody (s.withCtrl c)).unified s.ctrl := by
  have hchecks : firstFail (openChecks (s.withCtrl c)) = firstFail (openChecks s) :=
    congrArg firstFail (checksOf_withCtrl ht .openPkt)
  obtain ⟨hexp, hfound⟩ := withCtrl_tags ht
  cases hf : firstFail (openChecks s) with
  | some e =>
    have hne := openChecks_code_ne_padding hf
    rw [openBody_of_firstFail hf, openBody_of_firstFail (hchecks.trans hf)]
    exact (unified_of_ne_padding (t := (s.withCtrl c).raiseErr e) s.ctrl hne).symm
  | none =>
    have hf' := hchecks.trans hf
    by_cases htag : s.expectedTag = s.foundTag
    · rw [openBody_of_tag_eq hf htag, openBody_of_tag_eq hf' (hexp.trans (htag.trans hfound.symm)),
        State.openPaddingCode, State.openPaddingCode, if_pos hset, hclear, withCtrl_openedLen ht]
      exact unpadTo_unified s c (s.dstRegion s.openedLen) s.openedBytes
    · rw [openBody_of_tag_ne hf htag, openBody_of_tag_ne hf' fun h => htag (hexp.symm.trans (h.trans hfound)),
        withCtrl_openedLen ht]
      rfl

/-! ### AUTOCLR (R322) -/

/-- SEAL and OPEN set no key register before AUTOCLR does. -/
theorem exec_protocol_keys {i : Instr} {s t : State} (hi : isProtocol i = true) (h : exec i s = .next t) :
    t.keys = (if s.autoclr then bytes 64 0 else s.keys) ∧
      t.keyValid = (if s.autoclr then false else s.keyValid) := by
  obtain ⟨u, b, hset, hstore, hexec⟩ := exec_cases i s
  rw [hexec, hi] at h
  cases h
  obtain rfl | rfl | rfl | rfl | rfl := setsKeys_cases hset
  case inl =>
    obtain ⟨⟨hkeys, hvalid⟩, hctrl⟩ := storesTo_keepsKeys hstore
    have hbit : b.autoclr = u.autoclr := congrArg (BitVec.getLsbD · 2) hctrl
    rw [if_pos rfl, autoClear_keys, autoClear_keyValid, hbit, hkeys, hvalid]
    exact ⟨rfl, rfl⟩
  all_goals cases hi

/-! ### The statements -/

/-- Settles O51: the operands pick the first failing check, and past the checks the packet is stored. -/
theorem sealWritesThePacket : Obligations.SealWritesThePacket := by
  refine ⟨decode_encode .sealPkt, fun s hw => ?_⟩
  have hchecks := firstFail_sealChecks s
  have hpacket := sealedPacket_eq s
  intro l m
  split_ifs at hchecks ⊢
  -- The one case in which every check passes.
  case neg =>
    refine ⟨_, exec_seal_of_pass hchecks, ?_⟩
    intro c x packet
    rw [show packet = s.sealedPacket from hpacket.symm]
    exact ⟨sealedPacket_length s, autoClear_spec (memWrite_endedWith_spec s hw _ _ _ _)⟩
  all_goals exact ⟨_, exec_eq_endedWith_afterAutoclr_of_firstFail rfl hchecks, rfl⟩

/-- Settles O52: the operands pick the first failing check; past the checks the tag, then the padding check, pick between
the zero-fill and the plaintext. -/
theorem openAuthenticatesThenDecrypts : Obligations.OpenAuthenticatesThenDecrypts := by
  refine ⟨decode_encode .openPkt, fun s hw => ?_⟩
  have hchecks := firstFail_openChecks s
  intro a l n
  rw [← expectedTag_eq, ← foundTag_eq, ← openedBytes_eq, ← openPaddingCode_eq]
  split_ifs at hchecks ⊢ with hsrc hlen hflag hblocks hdst hapart hkey htag
  any_goals exact ⟨_, exec_eq_endedWith_afterAutoclr_of_firstFail rfl hchecks, rfl⟩
  -- Every check passes: the tags differ, or they agree.
  · exact exec_open_of_tag_ne hw hchecks htag
  · refine ⟨_, exec_open_of_tag_eq hchecks (not_not.1 htag), ?_⟩
    intro d
    cases hpad : pkcs7Check d with
    | none => exact autoClear_spec (unpadTo_of_bad_padding hw _ _ hpad)
    | some p => exact autoClear_spec (unpadTo_of_padding hw _ _ hpad)

/-- Settles O53: SEAL and OPEN end with AUTOCLR, and the other commands read of CTRL the tag length only. -/
theorem autoclrAppliesToSealAndOpen : Obligations.AutoclrAppliesToSealAndOpen := by
  intro i s
  obtain ⟨t, hexec⟩ := exec_next i s
  have ht : (s.withCtrl (s.ctrl ^^^ 0b0100)).tagLen = s.tagLen := withCtrl_tagLen (by simp)
  exact ⟨t, hexec, fun hi => exec_protocol_keys hi hexec, fun hi => exec_withCtrl ht hi hexec⟩

/-- Settles O54: an error writes nothing or zeros, and the early errors nothing; without the right tag there is an error. -/
theorem openFailsClosed : Obligations.OpenFailsClosed := by
  intro s t hw h a n
  have hearly (hcode : _) : t.buf = s.buf := (earlyErrorsWriteNothing .openPkt s t h hcode).1
  cases h
  rw [← expectedTag_eq, ← foundTag_eq]
  simp only [autoClear_errCode, autoClear_buf] at hearly ⊢
  refine ⟨fun herr x => ?_, fun hcode => hearly (List.mem_cons_of_mem _ hcode), tags_eq_of_openBody_ok⟩
  obtain hbuf | hbuf := openBody_buf_of_error herr
  · exact .inl (by rw [hbuf])
  · rw [hbuf, readByte_write_zeros hw]
    split
    case isTrue hin =>
      obtain ⟨hlow, hhigh⟩ := hin
      exact .inr ⟨hlow, hhigh, rfl⟩
    case isFalse => exact .inl rfl

/-- Settles O55: the exchange of CTRL keeps T and AUTOCLR, so that of OPEN only the code of a padding failure can differ,
and of AES_DEC nothing. -/
theorem unifyHidesOnlyThePaddingCode : Obligations.UnifyHidesOnlyThePaddingCode := by
  intro s hset
  have ht : (s.withCtrl (s.ctrl &&& 0b0111)).tagLen = s.tagLen := withCtrl_tagLen (by simp)
  have hclear : (s.withCtrl (s.ctrl &&& 0b0111)).unify = false := by simp [State.unify, State.withCtrl]
  refine ⟨⟨_, _, rfl, rfl, ?_⟩, ?_⟩
  · obtain ⟨-, hctrl⟩ := storesTo_keepsKeys (openBody_storesTo (s.withCtrl (s.ctrl &&& 0b0111)))
    rw [openBody_unified ht hset hclear]
    refine autoClear_unified ?_
    rw [hctrl]
    simp [State.withCtrl]
  · obtain ⟨t, hexec⟩ := exec_next .aesDec s
    exact ⟨t, hexec, exec_withCtrl ht rfl hexec⟩

end Sys2Proof.Machine
end

section
/-! PROOFS. The end of a command as the Host sees it (60_exceptions.md R341, R350): the codes each command ends with, and the
interrupt output. -/

namespace Sys2Proof.Machine

/-! ### The codes of a command (R341) -/

theorem ok_mem_codesOf (i : Instr) : .ok ∈ codesOf i := by
  cases i with
  | kdf x => cases x <;> exact .head _
  | _ => exact .head _

/-- The checks of a command raise only codes listed for it. -/
theorem checksOf_code_mem_codesOf {i : Instr} {s : State} {c : Check} (hc : c ∈ checksOf i s) : c.2 ∈ codesOf i := by
  revert c
  cases i with
  | nop | keyclear => exact fun h => nomatch h
  | kdf x => cases x <;> simp [checksOf, kdfChecks, codesOf]
  | keyload | aesEnc | aesDec | macGen | macVerify | pktEncode | pktDecode | sealPkt | openPkt =>
    simp [checksOf, codesOf, keyloadChecks, aesEncChecks, aesDecChecks, macGenChecks, macVerifyChecks, pktEncodeChecks,
      pktDecodeChecks, sealChecks, openChecks, State.decodeChecks]

/-- AUTOCLR leaves the code of the failing check (R322, R344). -/
theorem exec_errCode_of_firstFail {i : Instr} {s t : State} {e : ErrCode} (hf : firstFail (checksOf i s) = some e)
    (h : exec i s = .next t) : t.errCode = e := by
  cases (exec_of_firstFail hf).symm.trans h
  cases isProtocol i <;> simp

/-- Past its checks a command ends with no error, but for MAC_VERIFY's wrong tag, AES_DEC's wrong padding and OPEN's either
(R154). -/
theorem exec_errCode_mem_codesOf_of_pass {i : Instr} {s t : State} (hpass : firstFail (checksOf i s) = none)
    (h : exec i s = .next t) : t.errCode ∈ codesOf i := by
  cases i with
  | nop | keyclear => cases h; exact ok_mem_codesOf _
  | kdf x =>
    obtain ⟨e, he, -⟩ | ⟨-, hx⟩ := execKdf_cases x s
    · cases hpass.symm.trans he
    · cases hx.symm.trans h
      cases x <;> exact ok_mem_codesOf _
  | keyload =>
    obtain ⟨e, he, -⟩ | ⟨-, hx⟩ := execKeyload_cases s
    · cases hpass.symm.trans he
    · cases hx.symm.trans h
      exact ok_mem_codesOf _
  | aesEnc => cases (exec_aesEnc_of_pass hpass).symm.trans h; exact ok_mem_codesOf _
  | aesDec =>
    cases (exec_aesDec_of_pass hpass).symm.trans h
    obtain hc | hc := unpadTo_errCode s (s.dstRegion s.len) (s.decrypt (s.bytesAt s.srcAddr.toNat s.len)) .padding <;>
      simp [hc, codesOf]
  | macGen => cases (exec_macGen_of_pass hpass).symm.trans h; exact ok_mem_codesOf _
  | macVerify =>
    rw [exec_macVerify_of_pass hpass] at h
    split at h <;> cases h <;> simp [State.endedWith, codesOf]
  | pktEncode => cases (exec_pktEncode_of_pass hpass).symm.trans h; exact ok_mem_codesOf _
  | pktDecode => cases (exec_pktDecode_of_pass hpass).symm.trans h; exact ok_mem_codesOf _
  | sealPkt =>
    cases (exec_seal_of_pass hpass).symm.trans h
    rw [autoClear_errCode]
    exact ok_mem_codesOf _
  | openPkt =>
    have hlate : [.ok, .auth, ErrCode.padding] ⊆ codesOf .openPkt := by simp [codesOf]
    exact hlate (exec_errCode_of_pass hpass h)

/-- Settles O11: the code is that of the first failing check, or one of those a command past its checks can end with. -/
theorem errorCodesByCommand : Obligations.ErrorCodesByCommand := by
  refine ⟨fun i s t h => ?_, rfl⟩
  cases hf : firstFail (checksOf i s) with
  | none => exact exec_errCode_mem_codesOf_of_pass hf h
  | some e => exact exec_errCode_of_firstFail hf h ▸ checksOf_code_mem_codesOf (firstFail_mem hf)

/-! ### The interrupt output (R350) -/

theorem irq_iff (s : State) : s.irq = true ↔ s.ctrl.getLsbD 0 = true ∧ s.done = true := by
  simp [State.irq, State.ie]

/-- A completion sets DONE and leaves CTRL, so `irq` is IE (R346, R350). -/
theorem State.CompletesTo.irq {s t : State} (h : s.CompletesTo t) : t.irq = s.ctrl.getLsbD 0 := by
  rw [h.frame]
  simp [State.irq, State.ie]

/-- Acknowledging drops `irq` with DONE (R347). -/
theorem writeStatus_irq {s : State} {v : Word} (hv : v.getLsbD 1 = true) : (s.writeStatus v).irq = false := by
  simp [State.irq, writeStatus_eq, hv]

/-- Settles O22: the line follows DONE, which a completion sets and an acceptance or an acknowledgement clears. -/
theorem interruptLine : Obligations.InterruptLine := by
  intro s
  refine ⟨irq_iff s, fun i t h => ?_, accept_irq s, fun v hv => ?_, fun _ _ => rfl⟩
  · obtain ⟨t', ht', hcomplete⟩ := exec_completesTo i s
    cases ht'.symm.trans h
    exact hcomplete.irq
  · have hwrite : s.hostStep ⟨0x10, .word, .write v⟩ = (⟨.okay, none⟩, s.writeStatus v) := hostStep_writeTxn s .status v
    rw [hwrite]
    exact writeStatus_irq hv

end Sys2Proof.Machine
end

section
/-! PROOFS. Reset (70_reset_and_hazards.md R380 to R383): the buffer it draws and the values of the registers after it. -/

namespace Sys2Proof.Machine

/-! ### The buffer drawn (R381) -/

/-- A canonical list from `lo` up names no address below `lo`, and no byte that reads as unlisted. -/
theorem cell_of_wfFrom {lo : Nat} {m : Memory} (h : Memory.wfFrom lo m = true) {c : Nat} {v : Byte} (hc : (c, v) ∈ m) :
    lo ≤ c ∧ v ≠ unlistedByte := by
  induction m generalizing lo with
  | nil => cases hc
  | cons cell m ih =>
    obtain ⟨d, w⟩ := cell
    obtain ⟨hlo, hw, hm⟩ := wfFrom_cons.1 h
    obtain heq | htail := List.mem_cons.1 hc
    · cases heq
      exact ⟨hlo, hw⟩
    · obtain ⟨hle, hv⟩ := ih hm htail
      exact ⟨by omega, hv⟩

/-- The next cell of a canonical list, written after the cells before it, is appended to them. -/
theorem writeByte_eq_append {lo c : Nat} {v : Byte} {acc m : Memory} (h : Memory.wfFrom lo (acc ++ (c, v) :: m) = true) :
    Memory.writeByte acc c v = acc ++ [(c, v)] := by
  induction acc generalizing lo with
  | nil =>
    obtain ⟨-, hv, -⟩ := wfFrom_cons.1 h
    simp [Memory.writeByte, hv]
  | cons cell acc ih =>
    obtain ⟨d, w⟩ := cell
    obtain ⟨-, -, hrest⟩ := wfFrom_cons.1 h
    obtain ⟨hdc, -⟩ := cell_of_wfFrom hrest (c := c) (v := v) (by simp)
    simp [Memory.writeByte, ih hrest, show ¬ c < d by omega, show ¬ c = d by omega]

/-- Canonical contents inside the buffer, drawn, are the buffer's contents: each cell is in the buffer and is appended. -/
theorem drawn_eq_self {n : Nat} {m : Memory} (hw : m.wf = true) (hb : Memory.below n m = true) :
    Memory.drawn n m = m := by
  suffices h : ∀ acc : Memory, Memory.wf (acc ++ m) = true →
      m.foldl (fun m c => if c.1 < n then m.writeByte c.1 c.2 else m) acc = acc ++ m from h [] hw
  clear hw
  induction m with
  | nil => simp
  | cons cell m ih =>
    intro acc hacc
    obtain ⟨hc, hb'⟩ : cell.1 < n ∧ Memory.below n m = true := by simpa [Memory.below] using hb
    rw [List.foldl_cons, if_pos hc, writeByte_eq_append hacc, ih hb' _ (by simpa using hacc)]
    simp

/-- Settles O26: the reset draws the cells its move carries. -/
theorem resetCanDrawAnyBuffer : Obligations.ResetCanDrawAnyBuffer :=
  fun _ _ _ hw hb hs => ⟨_, step_of_reset hs, drawn_eq_self hw hb⟩

/-! ### The registers after reset (R380) -/

/-- The state right after reset is a reset that draws nothing, and a reset move is a reset of the state it finds. -/
theorem eq_resetWith_of_reset {t : State}
    (h : t = State.reset ∨ ∃ s cells rest, s.sched = .reset cells :: rest ∧ step s = .next t) :
    ∃ (s : State) (cells : List Host.Cell), t = s.resetWith cells := by
  obtain rfl | ⟨s, cells, rest, hs, hstep⟩ := h
  · exact ⟨State.reset, [], rfl⟩
  · cases (step_of_reset hs).symm.trans hstep
    exact ⟨_, cells, rfl⟩

/-- No flag of STATUS is set after a reset (R39). -/
theorem resetWith_status (s : State) (cells : List Host.Cell) : (s.resetWith cells).status = 0 := by
  simp [status_eq, State.resetWith, State.reset, ErrCode.code]

/-- Settles O25: a reset sets every register, whatever the state before and the contents drawn. -/
theorem resetValues : Obligations.ResetValues := by
  intro t h
  obtain ⟨s, cells, rfl⟩ := eq_resetWith_of_reset h
  exact ⟨rfl, rfl, rfl, rfl, rfl, rfl, rfl, rfl, rfl, rfl, rfl, rfl, rfl, rfl, rfl, Bool.and_false _,
    rfl, resetWith_status s cells, rfl, rfl, capValue_eq _⟩

end Sys2Proof.Machine
end
